-- ==== Sys2Proof/Word.lean ====
section
/-! DEFINITION. The unsigned word types of 00_scope.md R12. -/

namespace Sys2Proof

/-- `u8` (R12): a byte of the serial stream, of a ring, of an operand. -/
abbrev Byte := BitVec 8

/-- `u16` (R12): an operation word, a CRC value, a length field, a checksum field. -/
abbrev U16 := BitVec 16

/-- `u32` (R12): the value of a `U32` response. -/
abbrev U32 := BitVec 32

end Sys2Proof
end

