-- ==== Sys2Proof/Config.lean ====
section
/-! DEFINITION. The constants the source fixes (00_scope.md R9), the parameters it leaves open (R10) and the
command and response codes it lists as data (42_packet.md R146, R148). One named constant each, so that a
corrected literal is substituted in one place (I12, log 15). -/

namespace Sys2Proof.Config

/-- `STX`, the start-of-frame byte (R9). -/
abbrev stx : Byte := 0x02

/-- `CRC_POLY` (R9, R100). -/
abbrev crcPoly : U16 := 0x8005

/-- `CRC_INIT` (R9, R101). -/
abbrev crcInit : U16 := 0x0000

/-- `PREV_INIT` (R9, R101). -/
abbrev prevInit : Byte := 0x00

/-- `MAX_LEN`: a length field of at least this value is oversized (R9, R167). -/
abbrev maxLen : Nat := 1024

/-- `ACC_CAP`: the capacity of the framer accumulator in bytes (R9, R25). -/
abbrev accCap : Nat := 1024

/-- `DECAY_LIMIT` (R9, R177). -/
abbrev decayLimit : Nat := 0x10000

/-- `DECAY_NUM` (R9, R177). -/
abbrev decayNum : Nat := 4

/-- `DECAY_DEN` (R9, R177). -/
abbrev decayDen : Nat := 5

/-- `RATIO_SCALE` (R9, R184). -/
abbrev ratioScale : Nat := 100

/-- `STREAK_WIDTH`: the width of `badPacketStreak` in bits (R9). -/
abbrev streakWidth : Nat := 32

/-- `CNT_WIDTH`: the width of the other statistics registers in bits, fixed at its reference value (R10, D13;
log 7). -/
abbrev cntWidth : Nat := 32

/-- DESIGN CHOICE (log 4): what a ring slot reads as while nothing has been written to it. R52 lets a model
give such slots any value: no operation returns one in a reachable state. -/
abbrev unwrittenSlot : Byte := 0x00

/-- The parameters of one block instance that the source leaves open (R10). Constants of the instance: no
operation writes them (log 6). -/
structure Params where
  /-- `PQ_DEPTH`, at least 1. -/
  pqDepth : Nat
  /-- `RBX_CAP`, from 1 to 65535. -/
  rbxCap : Nat
deriving DecidableEq, Repr

/-- The constraints R10 puts on the parameters. -/
structure Params.Ok (p : Params) : Prop where
  pqDepth_pos : 1 ≤ p.pqDepth
  rbxCap_pos : 1 ≤ p.rbxCap
  rbxCap_le : p.rbxCap ≤ 65535

/-- The reference values of R10 (D18, D22). -/
def Params.reference : Params := { pqDepth := 16, rbxCap := 1024 }

/-! The command codes (R146) and response codes (R148): values of `Body[0]`. The block attaches no meaning
to any of them. -/

/-- `0x10`, reset/initialize (R146). -/
abbrev cmdReset : Byte := 0x10
/-- `0x20`, monitoring-mode select (R146). -/
abbrev cmdMonitoringMode : Byte := 0x20
/-- `0x30`, request single measurement (R146); the source gives no value of its mode byte (I13). -/
abbrev cmdSingleMeasurement : Byte := 0x30
/-- `0x31`, request status (R146). -/
abbrev cmdStatus : Byte := 0x31
/-- Data byte of `0x20`: start continuous output (R146). -/
abbrev modeStartContinuous : Byte := 0x24
/-- Data byte of `0x20`: stop continuous output (R146). -/
abbrev modeStopContinuous : Byte := 0x25
/-- Data byte of `0x20`: 38400 baud (R146). -/
abbrev modeBaud38400 : Byte := 0x40
/-- Data byte of `0x20`: 19200 baud (R146). -/
abbrev modeBaud19200 : Byte := 0x41
/-- Data byte of `0x20`: 9600 baud (R146). -/
abbrev modeBaud9600 : Byte := 0x42
/-- `0x90`, power-on (R148). -/
abbrev rspPowerOn : Byte := 0x90
/-- `0x91`, reset notice (R148). -/
abbrev rspResetNotice : Byte := 0x91
/-- `0xA0`, confirm (R148). -/
abbrev rspConfirm : Byte := 0xA0
/-- `0xB0`, measurement (R148). -/
abbrev rspMeasurement : Byte := 0xB0
/-- `0xB1`, status (R148). -/
abbrev rspStatus : Byte := 0xB1

/-- The address byte of the fixed command frames of R146 (D36). -/
abbrev commandAddress : Byte := 0x00

/-- The bodies of the fixed command frames, in the order of R146's table (the single-measurement request,
whose mode byte the source does not give, is left out as R146 leaves it). -/
def fixedCommandBodies : List (List Byte) :=
  [[cmdReset],
   [cmdMonitoringMode, modeBaud38400],
   [cmdMonitoringMode, modeBaud19200],
   [cmdMonitoringMode, modeBaud9600],
   [cmdMonitoringMode, modeStartContinuous],
   [cmdMonitoringMode, modeStopContinuous],
   [cmdStatus]]

end Sys2Proof.Config
end

