-- ==== Sys2Proof/Syntax.lean ====
section
/-! DEFINITION. The fourteen operations of 30_encoding.md R74, one constructor per row of
spec/opcode_table.json. -/

namespace Sys2Proof

/-- An operation of R74 with its operand. A one-byte operand is the raw argument field (R72). -/
inductive Instr where
  /-- `NOP` (R195). -/
  | nop
  /-- `CRC_CLR` (R105). -/
  | crcClr
  /-- `CRC_UPD b` (R106). -/
  | crcUpd (b : Byte)
  /-- `CRC_RD` (R107). -/
  | crcRd
  /-- `RB_CLR` (R125). -/
  | rbClr
  /-- `RB_WR b` (R126). -/
  | rbWr (b : Byte)
  /-- `RB_RD` (R127). -/
  | rbRd
  /-- `RB_LEN` (R128). -/
  | rbLen
  /-- `FR_RST` (R186). -/
  | frRst
  /-- `FR_FEED b` (R161). -/
  | frFeed (b : Byte)
  /-- `FR_HAS` (R182). -/
  | frHas
  /-- `FR_POP` (R183). -/
  | frPop
  /-- `FR_STAT sel` (R185). -/
  | frStat (sel : Byte)
  /-- `ENC a, body` (R145): the address byte and the payload of the transaction. -/
  | enc (a : Byte) (body : List Byte)
deriving DecidableEq, Repr

end Sys2Proof
end

