-- ==== Sys2Proof/WellFormed.lean ====
section
/-! DEFINITION. The operand checks that the spec leaves to an operation's own rule (30_encoding.md R75): the
selector of FR_STAT (43_framer.md R185) and the body length of ENC (42_packet.md R145). An operation that fails
its check still decodes and runs: it gives the error response. -/

namespace Sys2Proof

/-- The selector names a status register: `0x00..0x06` (10_state.md R32; `0x07..0xFF` are reserved). -/
def selectorOk (sel : Byte) : Bool := decide (sel.toNat < 7)

/-- The body is short enough for a frame: at most `MAX_LEN - 1 = 1023` bytes (R145). -/
def bodyOk (body : List Byte) : Bool := decide (body.length ≤ Config.maxLen - 1)

/-- Every operand has a value that the operation's rule accepts. -/
def Instr.wellFormed : Instr → Bool
  | .nop => true
  | .crcClr => true
  | .crcUpd _ => true
  | .crcRd => true
  | .rbClr => true
  | .rbWr _ => true
  | .rbRd => true
  | .rbLen => true
  | .frRst => true
  | .frFeed _ => true
  | .frHas => true
  | .frPop => true
  | .frStat sel => selectorOk sel
  | .enc _ body => bodyOk body

end Sys2Proof
end

