-- ==== Sys2Proof/Decode.lean ====
section
/-! DEFINITION. The operation transaction, its decoder (30_encoding.md R70 to R75, R78) and its encoder
(R71, R74). -/

namespace Sys2Proof

/-- One transaction on the command port (R70): the operation word and the payload. -/
structure Op where
  word : U16
  payload : List Byte
deriving DecidableEq, Repr

/-- Why a transaction is a reserved operation: the three lines of R78. -/
inductive Reserved where
  /-- An `opc` that R74 does not list. -/
  | opcode
  /-- A non-empty payload on an operation other than `ENC`. -/
  | payload
  /-- A non-zero `arg` on an operation that takes no argument. -/
  | argument
deriving DecidableEq, Repr

/-- What the decoder answers: an operation of R74, or reserved (R75). -/
inductive Decoded where
  | op (i : Instr)
  | reserved (why : Reserved)
deriving DecidableEq, Repr

/-- `opc = word[15:8]` (R71). -/
def Op.opc (o : Op) : BitVec 8 := o.word.extractLsb' 8 8

/-- `arg = word[7:0]` (R71). -/
def Op.arg (o : Op) : Byte := o.word.extractLsb' 0 8

/-- The operation codes of R74. -/
def listedOpcodes : List (BitVec 8) :=
  [0x00, 0x01, 0x02, 0x03, 0x10, 0x11, 0x12, 0x13, 0x20, 0x21, 0x22, 0x23, 0x24, 0x30]

/-- The operation code of `ENC`, the one operation that takes a payload (R73). -/
def encOpcode : BitVec 8 := 0x30

/-- The operation codes that take no argument (R75). -/
def noArgOpcodes : List (BitVec 8) :=
  [0x00, 0x01, 0x03, 0x10, 0x12, 0x13, 0x20, 0x22, 0x23]

/-- The operation R74 gives for an operation code, with the argument and the payload as its operands. -/
def select (opc : BitVec 8) (arg : Byte) (payload : List Byte) : Option Instr :=
  match opc with
  | 0x00#8 => some .nop
  | 0x01#8 => some .crcClr
  | 0x02#8 => some (.crcUpd arg)
  | 0x03#8 => some .crcRd
  | 0x10#8 => some .rbClr
  | 0x11#8 => some (.rbWr arg)
  | 0x12#8 => some .rbRd
  | 0x13#8 => some .rbLen
  | 0x20#8 => some .frRst
  | 0x21#8 => some (.frFeed arg)
  | 0x22#8 => some .frHas
  | 0x23#8 => some .frPop
  | 0x24#8 => some (.frStat arg)
  | 0x30#8 => some (.enc arg payload)
  | _ => none

/-- The decoder of R75: the first step that applies decides. -/
def decode (o : Op) : Decoded :=
  match select o.opc o.arg o.payload with
  | none => .reserved .opcode
  | some i =>
    if o.opc ≠ encOpcode ∧ o.payload ≠ [] then .reserved .payload
    else if o.opc ∈ noArgOpcodes ∧ o.arg ≠ 0x00 then .reserved .argument
    else .op i

/-- The operation code of an operation (R74). -/
def Instr.opcode : Instr → BitVec 8
  | .nop => 0x00
  | .crcClr => 0x01
  | .crcUpd _ => 0x02
  | .crcRd => 0x03
  | .rbClr => 0x10
  | .rbWr _ => 0x11
  | .rbRd => 0x12
  | .rbLen => 0x13
  | .frRst => 0x20
  | .frFeed _ => 0x21
  | .frHas => 0x22
  | .frPop => 0x23
  | .frStat _ => 0x24
  | .enc _ _ => 0x30

/-- The argument field of an operation: its byte operand, or `0x00` (R71). -/
def Instr.argument : Instr → Byte
  | .nop => 0x00
  | .crcClr => 0x00
  | .crcUpd b => b
  | .crcRd => 0x00
  | .rbClr => 0x00
  | .rbWr b => b
  | .rbRd => 0x00
  | .rbLen => 0x00
  | .frRst => 0x00
  | .frFeed b => b
  | .frHas => 0x00
  | .frPop => 0x00
  | .frStat sel => sel
  | .enc a _ => a

/-- The payload of an operation: the body of `ENC`, the empty list of every other (R70). -/
def Instr.payload : Instr → List Byte
  | .enc _ body => body
  | .nop | .crcClr | .crcUpd _ | .crcRd | .rbClr | .rbWr _ | .rbRd | .rbLen
  | .frRst | .frFeed _ | .frHas | .frPop | .frStat _ => []

/-- The transaction of an operation: `opc` in bits 15 to 8, `arg` in bits 7 to 0 (R71). -/
def encode (i : Instr) : Op := { word := i.opcode ++ i.argument, payload := i.payload }

/-- The transaction of an operation word as spec/opcode_table.json numbers it, with an empty payload: the
table gives the payload no bits (log 13). Every bit above `nbits` is 0. -/
def tableOp (nbits w : Nat) : Op := { word := BitVec.ofNat 16 (w % 2 ^ nbits), payload := [] }

/-- The instruction the decoder reads from a word of the opcode table. Every operation word is 16 bits (R80):
nothing longer is one. -/
def decodeTableWord (nbits w : Nat) : Option Instr :=
  if nbits ≤ 16 then
    match decode (tableOp nbits w) with
    | .op i => some i
    | .reserved _ => none
  else none

end Sys2Proof
end

