-- ==== Sys2Proof/Machine/State.lean ====
section
/-! DEFINITION. The architectural state of the block (10_state.md R20 to R34), the command port it is driven
through (30_encoding.md R70, R76) and its reset value (70_reset_and_hazards.md R221). -/

namespace Sys2Proof.Machine

/-- The storage of one ring: (slot, byte) pairs. In canonical form the slots rise strictly and no pair holds
`Config.unwrittenSlot`, which is what an unlisted slot reads as (log 4). -/
abbrev Memory := List Host.Cell

/-- One ring buffer instance `rb` (R23). Its capacity is a parameter of the instance, not state. -/
structure Ring where
  /-- `rb.head`: index of the oldest stored byte. -/
  head : BitVec 16
  /-- `rb.tail`: index of the slot the next write fills. -/
  tail : BitVec 16
  /-- `rb.len`: number of stored bytes. -/
  len : BitVec 17
  /-- `rb.mem`: the storage. -/
  mem : Memory
deriving DecidableEq, Repr

/-- The reset value of a ring (R23). -/
def Ring.reset : Ring := { head := 0, tail := 0, len := 0, mem := [] }

/-- The packet record of 42_packet.md R140. `STX` is always `0x02` and is not stored. -/
structure Packet where
  address : Byte
  length : U16
  body : List Byte
  checksum : U16
deriving DecidableEq, Repr

/-- The framer states (R26). Code 7 of the register is unused and has no value here (log 12). -/
inductive FramerState where
  | awaitingStx
  | address
  | lengthLow
  | lengthHigh
  | body
  | checksumLow
  | checksumHigh
deriving DecidableEq, Repr

/-- The CRC unit CRCU (R22). -/
structure Crcu where
  /-- `crc`: the running CRC. -/
  crc : U16
  /-- `prev`: the byte most recently folded in. -/
  prev : Byte
deriving DecidableEq, Repr

/-- The reset value of the CRC unit (R22): `CRC_INIT` and `PREV_INIT`. -/
def Crcu.reset : Crcu := { crc := Config.crcInit, prev := Config.prevInit }

/-- A statistics register of `CNT_WIDTH` bits (R29). -/
abbrev Counter := BitVec Config.cntWidth

/-- The register `badPacketStreak`, of `STREAK_WIDTH` bits (R9, R29). -/
abbrev StreakCounter := BitVec Config.streakWidth

/-- The framer FR with its accumulator and its packet queue (R25 to R30). -/
structure Framer where
  /-- `fst`: the framer state register (R26). -/
  fst : FramerState
  /-- `fAddr`: the Address byte of the packet in flight (R27). -/
  fAddr : Byte
  /-- `fLenLo`: the low byte of the Length field (R27). -/
  fLenLo : Byte
  /-- `fLen`: the Length field, once both bytes are in (R27). -/
  fLen : U16
  /-- `fRem`: body bytes still to come in state `Body` (R27). -/
  fRem : U16
  /-- `fCkLo`: the low byte of the received Checksum field (R27). -/
  fCkLo : Byte
  /-- `fCrc`: the running CRC over STX..last body byte received so far (R28). -/
  fCrc : U16
  /-- `fPrev`: the previous byte of that running CRC (R28). -/
  fPrev : Byte
  /-- `ACC`: the body of the packet in flight (R25). -/
  acc : Ring
  /-- `totalBytesSeen`: bytes fed to the framer, decayed (R29). -/
  totalBytesSeen : Counter
  /-- `droppedBytes`: noise bytes, decayed (R29). -/
  droppedBytes : Counter
  /-- `badPacketStreak`: consecutive checksum failures since the last good packet (R29). -/
  badPacketStreak : StreakCounter
  /-- `badPacketCount`: oversized lengths and checksum failures (R29). -/
  badPacketCount : Counter
  /-- `pqOverflow`: valid packets lost because the packet queue was full (R29). -/
  pqOverflow : Counter
  /-- `PQ`: the packet queue, oldest first (R30). -/
  pq : List Packet
deriving DecidableEq, Repr

/-- The reset value of the framer (R25 to R30, R221). -/
def Framer.reset : Framer :=
  { fst := .awaitingStx
    fAddr := 0x00, fLenLo := 0x00, fLen := 0x0000, fRem := 0x0000, fCkLo := 0x00
    fCrc := 0x0000, fPrev := 0x00
    acc := Ring.reset
    totalBytesSeen := 0, droppedBytes := 0
    badPacketStreak := 0, badPacketCount := 0, pqOverflow := 0
    pq := [] }

/-- The value of a response (30_encoding.md R76). -/
inductive RspVal where
  /-- `NONE`. -/
  | none
  /-- `BYTE(valid, data)`. -/
  | byte (valid : Bool) (data : Byte)
  /-- `U16(v)`. -/
  | u16 (v : U16)
  /-- `U32(v)`. -/
  | u32 (v : U32)
  /-- `BOOL(v)`. -/
  | bool (v : Bool)
  /-- `PKT(p)`: a packet record or `none`. -/
  | pkt (p : Option Packet)
  /-- `FRAME(l)`: a byte list in wire order. -/
  | frame (l : List Byte)
deriving DecidableEq, Repr

/-- The single response of an operation, `rsp = (err, val)` (R76). -/
structure Response where
  err : Bool
  val : RspVal
deriving DecidableEq, Repr

/-- What the host can do to the block between two operations: issue a transaction (R70) or reset the block
(70_reset_and_hazards.md R220). -/
inductive PortEvent where
  | op (o : Op)
  | reset
deriving DecidableEq, Repr

/-- The state of one block instance (R212: instances share nothing), with its parameters and the two sides of
its command port. -/
structure State where
  /-- The instance's parameters (00_scope.md R10): constants, written by nothing (log 6). -/
  params : Config.Params
  /-- The CRC unit (R22). -/
  crcu : Crcu
  /-- The host ring RBX (R24). -/
  rbx : Ring
  /-- The framer, with ACC and PQ (R25 to R30). -/
  fr : Framer
  /-- DESIGN CHOICE (log 1): what the host has issued and the block has not performed yet, first issued first. -/
  pending : List PortEvent
  /-- DESIGN CHOICE (log 3): the responses returned so far, oldest first (R76, R229). -/
  responses : List Response
deriving DecidableEq, Repr

/-- Why the machine stops with a fault: never. No behaviour of the block is treated as a fault
(93_implementation_defined.md, section 1; 60_exceptions.md R200), so this type has no constructor and the
machine has no way to answer one. -/
inductive Fault where
deriving DecidableEq, Repr

/-- Why the machine refuses. -/
inductive Refusal where
  /-- Raised by an arm of `exec` whose operation has no meaning yet; safe (the model stops where the block goes
  on). No arm raises it: every operation of the table has its meaning. -/
  | notModelled (mnemonic : String)
deriving DecidableEq, Repr

/-- The block right after the reset event, for given parameters (R220, R221): nothing issued, nothing
answered. -/
def State.resetWith (p : Config.Params) : State :=
  { params := p, crcu := Crcu.reset, rbx := Ring.reset, fr := Framer.reset, pending := [], responses := [] }

/-- The block right after reset, with the reference values of its parameters (R10, R221). -/
def State.reset : State := State.resetWith Config.Params.reference

/-! The updates of one field of State, through which the operations write (Laws/State.lean has their lemmas). -/

/-- The state with another CRC unit. -/
def State.withCrcu (s : State) (c : Crcu) : State := { s with crcu := c }

/-- The state with another host ring. -/
def State.withRbx (s : State) (r : Ring) : State := { s with rbx := r }

/-- The state with another framer. -/
def State.withFr (s : State) (f : Framer) : State := { s with fr := f }

/-- The state with other events still to be performed. -/
def State.withPending (s : State) (es : List PortEvent) : State := { s with pending := es }

/-- The state with one more response returned. -/
def State.addResponse (s : State) (r : Response) : State := { s with responses := s.responses ++ [r] }

end Sys2Proof.Machine
end

