-- ==== Sys2Proof/Machine/Operands.lean ====
section
/-! DEFINITION. Operand forms and byte order: raw byte operands and their zero extension (30_encoding.md R72),
the two bytes of a 16-bit field (20_memory.md R53, R54), the selector space of FR_STAT (10_state.md R32), and
the numeric code of a framer state (R26). -/

namespace Sys2Proof.Machine

/-- `zext_16(arg)` (R72). -/
def zext16 (b : Byte) : U16 := b.setWidth 16

/-- `zext_32(v)` (00_scope.md R12): a value as a `U32` response carries it. -/
def zext32 {w : Nat} (v : BitVec w) : U32 := v.setWidth 32

/-- `v[7:0]`: the byte sent first (R53). -/
def lowByte (v : U16) : Byte := v.extractLsb' 0 8

/-- `v[15:8]`: the byte sent second (R53). -/
def highByte (v : U16) : Byte := v.extractLsb' 8 8

/-- The concatenation `{hi, lo}` (00_scope.md R12): `hi` in bits 15 to 8. -/
def joinBytes (hi lo : Byte) : U16 := hi ++ lo

/-- `L = len(body)` as the u16 length field of a frame (42_packet.md R145). -/
def lengthField (body : List Byte) : U16 := BitVec.ofNat 16 body.length

/-- The named status registers of the selector space (R32). -/
inductive StatReg where
  | total
  | dropped
  | streak
  | badcnt
  | ratio
  | pqcnt
  | pqovf
deriving DecidableEq, Repr

/-- The status register a selector names, none for the reserved selectors `0x07..0xFF` (R32). -/
def statReg (sel : Byte) : Option StatReg :=
  match sel with
  | 0x00#8 => some .total
  | 0x01#8 => some .dropped
  | 0x02#8 => some .streak
  | 0x03#8 => some .badcnt
  | 0x04#8 => some .ratio
  | 0x05#8 => some .pqcnt
  | 0x06#8 => some .pqovf
  | _ => none

/-- The 3-bit code of a framer state (R26). No operation reads it. -/
def FramerState.code : FramerState → BitVec 3
  | .awaitingStx => 0
  | .address => 1
  | .lengthLow => 2
  | .lengthHigh => 3
  | .body => 4
  | .checksumLow => 5
  | .checksumHigh => 6

end Sys2Proof.Machine
end

