-- ==== Sys2Proof/Machine/Ops.lean ====
section
/-! DEFINITION. The operations shared by the meanings: ring storage, the ring primitives (41_ringbuffer.md R121
to R124), the CRC functions (40_checksum.md R100, R101), the saturating increment (00_scope.md R14) and the
responses (30_encoding.md R76, R77). The block takes no exception and returns from none (60_exceptions.md R200,
R208; log 14): the one error path every operation shares is `respondErr`. -/

namespace Sys2Proof.Machine

/-! ### Ring storage -/

/-- The byte in a slot; a slot that is not listed reads as `Config.unwrittenSlot` (log 4). -/
def Memory.read : Memory → Nat → Byte
  | [], _ => Config.unwrittenSlot
  | (k, v) :: m, a => if a = k then v else Memory.read m a

/-- Put a byte in front of the pairs of the higher slots, keeping the canonical form. -/
def Memory.push (a : Nat) (b : Byte) (m : Memory) : Memory :=
  if b = Config.unwrittenSlot then m else (a, b) :: m

/-- Write a byte to a slot, keeping the canonical form. -/
def Memory.write : Memory → Nat → Byte → Memory
  | [], a, b => Memory.push a b []
  | (k, v) :: m, a, b =>
    if a < k then Memory.push a b ((k, v) :: m)
    else if a = k then Memory.push a b m
    else (k, v) :: Memory.write m a b

/-- The canonical form: slots rise strictly, and no pair holds what an unlisted slot reads as. -/
def Memory.wf : Memory → Bool
  | [] => true
  | (k, v) :: m =>
    decide (v ≠ Config.unwrittenSlot) && m.all (fun c => decide (k < c.1)) && Memory.wf m

/-! ### Ring primitives. `cap` is `rb.cap`, the capacity of the instance. -/

/-- `(p + 1) mod rb.cap`: the slot after `p`. -/
def Ring.next (cap : Nat) (p : BitVec 16) : BitVec 16 := BitVec.ofNat 16 ((p.toNat + 1) % cap)

/-- `RingClear(rb)` (R121). The storage is not written. -/
def Ring.clear (r : Ring) : Ring := { r with head := 0, tail := 0, len := 0 }

/-- `RingRead(rb)` (R122): the valid bit, the data byte and the ring afterwards. -/
def Ring.read (cap : Nat) (r : Ring) : Bool × Byte × Ring :=
  if r.len = 0 then (false, 0x00, r)
  else (true, Memory.read r.mem r.head.toNat, { r with head := Ring.next cap r.head, len := r.len - 1 })

/-- `RingContents(rb)` (R123): the stored bytes, oldest first. -/
def Ring.contents (cap : Nat) (r : Ring) : List Byte :=
  (List.range r.len.toNat).map (fun i => Memory.read r.mem ((r.head.toNat + i) % cap))

/-- `RingWrite(rb, b)` (R124): a write to a full ring drops the oldest byte. -/
def Ring.write (cap : Nat) (r : Ring) (b : Byte) : Ring :=
  let written := { r with mem := Memory.write r.mem r.tail.toNat b, tail := Ring.next cap r.tail }
  if r.len.toNat = cap then { written with head := Ring.next cap r.head }
  else { written with len := r.len + 1 }

/-! ### CRC -/

/-- `crcStep(c, p, b)` (R100): the new CRC and the new previous byte. -/
def crcStep (c : U16) (p b : Byte) : U16 × Byte :=
  let t := if c &&& 0x8000 ≠ 0 then ((c &&& 0x7FFF) <<< 1) ^^^ Config.crcPoly else c <<< 1
  (t ^^^ (zext16 b ||| (zext16 p <<< 8)), b)

/-- The fold of `crcStep` over a byte list, from a running CRC and its previous byte (R101). -/
def crcFold (cp : U16 × Byte) (l : List Byte) : U16 × Byte :=
  l.foldl (fun cp b => crcStep cp.1 cp.2 b) cp

/-- `crc16(l)` (R101). -/
def crc16 (l : List Byte) : U16 := (crcFold (Config.crcInit, Config.prevInit) l).1

/-! ### Counters -/

/-- `sat(v + 1)` of a counter (R14, D13): it stays at the largest value of its width. The two widths of the
statistics registers are the same (R29), so this is `min(v + 1, 2^CNT_WIDTH - 1)` for each of them. -/
def satInc {w : Nat} (v : BitVec w) : BitVec w := BitVec.ofNat w (min (v.toNat + 1) (2 ^ w - 1))

/-! ### Responses -/

/-- `respond(kind, value)` (R76): `err = 0` and the value. An operation that reaches no `respond` answers
`respond .none`. -/
def respond (v : RspVal) (s : State) : State := s.addResponse { err := false, val := v }

/-- `respond_err()` (R77): the error response; no state of the block changes. -/
def respondErr (s : State) : State := s.addResponse { err := true, val := .none }

end Sys2Proof.Machine
end

