-- ==== Sys2Proof/Machine/Block.lean ====
section
/-! DEFINITION. Block-level behaviour: NOP (44_block.md R195), a reserved operation (R196), the reset event
(70_reset_and_hazards.md R220) and the command port's two ends (30_encoding.md R70). -/

namespace Sys2Proof.Machine

/-- The unit an operation belongs to (R74; the units of 00_scope.md R2, and the block itself for `NOP`). -/
inductive BlockUnit where
  | block
  | crcu
  | rbx
  | fr
  | enc
deriving DecidableEq, Repr

/-- The unit column of 30_encoding.md R74. -/
def unitOf : Instr → BlockUnit
  | .nop => .block
  | .crcClr | .crcUpd _ | .crcRd => .crcu
  | .rbClr | .rbWr _ | .rbRd | .rbLen => .rbx
  | .frRst | .frFeed _ | .frHas | .frPop | .frStat _ => .fr
  | .enc _ _ => .enc

/-- `NOP` (R195): no state is read or written. -/
def execNop (s : State) : Host.Outcome State Fault Refusal := .next (respond .none s)

/-- A reserved operation (R78, R196): the error response and no state change, a next state (log 10). -/
def execReserved (_why : Reserved) (s : State) : Host.Outcome State Fault Refusal := .next (respondErr s)

/-- The reset event (R220, R221): every piece of state at its reset value. It returns no response. The
parameters are constants, and the command port's lists are the host's (log 5). -/
def blockReset (s : State) : State :=
  { s with crcu := Crcu.reset, rbx := Ring.reset, fr := Framer.reset }

/-- With nothing issued, the block takes no step of its own (00_scope.md R7; log 2). -/
def idle (s : State) : State := s

/-- Issue a transaction to be performed before every other pending one. -/
def issueFirst (o : Op) (s : State) : State := s.withPending (.op o :: s.pending)

end Sys2Proof.Machine
end

