-- ==== Sys2Proof/Machine/Crc.lean ====
section
/-! DEFINITION. The operations of the CRC unit (40_checksum.md R105 to R107). -/

namespace Sys2Proof.Machine

/-- `CRC_CLR` (R105): the start values, `CRC_INIT` and `PREV_INIT`, which R22 also makes the reset values. -/
def execCrcClr (s : State) : Host.Outcome State Fault Refusal :=
  .next (respond .none (s.withCrcu { crc := Config.crcInit, prev := Config.prevInit }))

/-- `CRC_UPD b` (R106). -/
def execCrcUpd (b : Byte) (s : State) : Host.Outcome State Fault Refusal :=
  let cp := crcStep s.crcu.crc s.crcu.prev b
  .next (respond .none (s.withCrcu { crc := cp.1, prev := cp.2 }))

/-- `CRC_RD` (R107). -/
def execCrcRd (s : State) : Host.Outcome State Fault Refusal :=
  .next (respond (.u16 s.crcu.crc) s)

end Sys2Proof.Machine
end

