-- ==== Sys2Proof/Machine/PacketEnc.lean ====
section
/-! DEFINITION. The packet record's derived fields and wire form, and the encoder ENC (42_packet.md R141 to
R147). -/

namespace Sys2Proof.Machine

/-- The bytes of a frame before its body: `STX`, address, length low byte first (R53, R144). -/
def frameHeader (a : Byte) (length : U16) : List Byte := [Config.stx, a, lowByte length, highByte length]

/-- `command(p)` (R141): none for an empty body (D10). -/
def Packet.command (p : Packet) : Option Byte :=
  if p.length = 0 then none else p.body[0]?

/-- `calculatedChecksum(p)` (R142). -/
def Packet.calculatedChecksum (p : Packet) : U16 := crc16 (frameHeader p.address p.length ++ p.body)

/-- `isValid(p)` (R143). -/
def Packet.isValid (p : Packet) : Bool := decide (p.calculatedChecksum = p.checksum)

/-- `wire(p)` (R144). -/
def Packet.wire (p : Packet) : List Byte :=
  frameHeader p.address p.length ++ p.body ++ [lowByte p.checksum, highByte p.checksum]

/-- The packet `ENC` encodes: its length is derived from the body, its checksum from both (R145, R147). -/
def Packet.ofBody (a : Byte) (body : List Byte) : Packet :=
  let l := lengthField body
  { address := a, length := l, body := body, checksum := crc16 (frameHeader a l ++ body) }

/-- `ENC a, body` (R145): the frame, or the error response for more than 1023 body bytes. -/
def execEnc (a : Byte) (body : List Byte) (s : State) : Host.Outcome State Fault Refusal :=
  if body.length > Config.maxLen - 1 then .next (respondErr s)
  else .next (respond (.frame (Packet.ofBody a body).wire) s)

end Sys2Proof.Machine
end

