-- ==== Sys2Proof/Machine/Framer.lean ====
section
/-! DEFINITION. The packet framer FR and its operations (43_framer.md R160 to R192). -/

namespace Sys2Proof.Machine

/-! ### Statistics -/

/-- R162: every `FR_FEED` counts its byte first. -/
def Framer.count (f : Framer) : Framer := { f with totalBytesSeen := f.totalBytesSeen + 1 }

/-- `(x * 4) div 5` of a byte counter, the product formed without loss (R177, D15). -/
def decayed {w : Nat} (x : BitVec w) : BitVec w := BitVec.ofNat w (x.toNat * Config.decayNum / Config.decayDen)

/-- R177: the last step of every `FR_FEED`. -/
def Framer.decay (f : Framer) : Framer :=
  if f.totalBytesSeen.toNat > Config.decayLimit then
    { f with totalBytesSeen := decayed f.totalBytesSeen, droppedBytes := decayed f.droppedBytes }
  else f

/-- `noiseRatio()` (R184). -/
def Framer.noiseRatio (f : Framer) : U32 :=
  if f.totalBytesSeen = 0 then 0
  else BitVec.ofNat 32 (Config.ratioScale * f.droppedBytes.toNat / f.totalBytesSeen.toNat)

/-! ### The packet queue -/

/-- `enqueue(p)` (R181): a full queue drops its oldest packet and counts the loss. -/
def Framer.enqueue (depth : Nat) (p : Packet) (f : Framer) : Framer :=
  if f.pq.length = depth then { f with pq := f.pq.drop 1 ++ [p], pqOverflow := satInc f.pqOverflow }
  else { f with pq := f.pq ++ [p] }

/-! ### The states. Each function is the rule of one state; `b` is the byte fed. -/

/-- `(fCrc, fPrev) <- crcStep(fCrc, fPrev, b)`: one byte of the frame's running CRC (R28). -/
def Framer.foldCrc (b : Byte) (f : Framer) : Framer :=
  let cp := crcStep f.fCrc f.fPrev b
  { f with fCrc := cp.1, fPrev := cp.2 }

/-- R163, state `AwaitingStx`. -/
def Framer.onAwaitingStx (b : Byte) (f : Framer) : Framer :=
  if b = Config.stx then
    let cp := crcStep Config.crcInit Config.prevInit b
    { f with fCrc := cp.1, fPrev := cp.2, fst := .address }
  else { f with droppedBytes := f.droppedBytes + 1 }

/-- R164, state `Address`: every address value is accepted. -/
def Framer.onAddress (b : Byte) (f : Framer) : Framer :=
  { ({ f with fAddr := b } : Framer).foldCrc b with fst := .lengthLow }

/-- R165, state `LengthLow`. -/
def Framer.onLengthLow (b : Byte) (f : Framer) : Framer :=
  { ({ f with fLenLo := b } : Framer).foldCrc b with fst := .lengthHigh }

/-- R167: an oversized length abandons the frame. -/
def Framer.oversized (f : Framer) : Framer :=
  { f with badPacketCount := satInc f.badPacketCount, acc := f.acc.clear, fst := .awaitingStx }

/-- R168: a zero length goes straight to the checksum. -/
def Framer.zeroLength (f : Framer) : Framer := { f with fLen := 0x0000, fst := .checksumLow }

/-- R169: a length from 1 to 1023 starts the body. -/
def Framer.startBody (l : U16) (f : Framer) : Framer := { f with fLen := l, fRem := l, fst := .body }

/-- R166, state `LengthHigh`, then R167, R168 or R169. -/
def Framer.onLengthHigh (b : Byte) (f : Framer) : Framer :=
  let l := joinBytes b f.fLenLo
  let g := f.foldCrc b
  if l.toNat ≥ Config.maxLen then g.oversized
  else if l = 0 then g.zeroLength
  else g.startBody l

/-- R171, state `Body`. -/
def Framer.onBody (b : Byte) (f : Framer) : Framer :=
  let g := ({ f with acc := f.acc.write Config.accCap b } : Framer).foldCrc b
  { g with fRem := f.fRem - 1, fst := if f.fRem - 1 = 0 then .checksumLow else .body }

/-- R172, state `ChecksumLow`: checksum bytes do not enter the running CRC. -/
def Framer.onChecksumLow (b : Byte) (f : Framer) : Framer := { f with fCkLo := b, fst := .checksumHigh }

/-- The packet of R174, from the accumulated bytes. -/
def Framer.packet (ck : U16) (f : Framer) : Packet :=
  { address := f.fAddr, length := f.fLen, body := f.acc.contents Config.accCap, checksum := ck }

/-- R174: a valid packet is enqueued and ends the streak. -/
def Framer.validPacket (depth : Nat) (ck : U16) (f : Framer) : Framer :=
  { f.enqueue depth (f.packet ck) with badPacketStreak := 0 }

/-- R175: a checksum failure is counted and the frame discarded. -/
def Framer.checksumFailure (f : Framer) : Framer :=
  { f with badPacketStreak := satInc f.badPacketStreak, badPacketCount := satInc f.badPacketCount }

/-- R176: either way, clear the accumulator and wait for the next frame. -/
def Framer.endFrame (f : Framer) : Framer := { f with acc := f.acc.clear, fst := .awaitingStx }

/-- R173, state `ChecksumHigh`, then R174 or R175, then R176. -/
def Framer.onChecksumHigh (depth : Nat) (b : Byte) (f : Framer) : Framer :=
  let ck := joinBytes b f.fCkLo
  if f.fCrc = ck then (f.validPacket depth ck).endFrame else f.checksumFailure.endFrame

/-- The rule of the current state (the case of R161). -/
def Framer.onState (depth : Nat) (b : Byte) (f : Framer) : Framer :=
  match f.fst with
  | .awaitingStx => f.onAwaitingStx b
  | .address => f.onAddress b
  | .lengthLow => f.onLengthLow b
  | .lengthHigh => f.onLengthHigh b
  | .body => f.onBody b
  | .checksumLow => f.onChecksumLow b
  | .checksumHigh => f.onChecksumHigh depth b

/-- R161: count the byte, apply the state's rule, then decay. -/
def Framer.feed (depth : Nat) (b : Byte) (f : Framer) : Framer := (f.count.onState depth b).decay

/-- The value of a status register (R32, R185). -/
def Framer.stat (f : Framer) : StatReg → U32
  | .total => zext32 f.totalBytesSeen
  | .dropped => zext32 f.droppedBytes
  | .streak => zext32 f.badPacketStreak
  | .badcnt => zext32 f.badPacketCount
  | .ratio => f.noiseRatio
  | .pqcnt => BitVec.ofNat 32 f.pq.length
  | .pqovf => zext32 f.pqOverflow

/-- The framer after `FR_RST` (R186): every register, ACC, PQ; the storage of ACC is not written (R121). -/
def Framer.clear (f : Framer) : Framer :=
  { fst := .awaitingStx
    fAddr := 0x00, fLenLo := 0x00, fLen := 0x0000, fRem := 0x0000, fCkLo := 0x00
    fCrc := 0x0000, fPrev := 0x00
    acc := f.acc.clear
    totalBytesSeen := 0, droppedBytes := 0
    badPacketStreak := 0, badPacketCount := 0, pqOverflow := 0
    pq := [] }

/-! ### The operations -/

/-- `FR_RST` (R186). -/
def execFrRst (s : State) : Host.Outcome State Fault Refusal :=
  .next (respond .none (s.withFr s.fr.clear))

/-- `FR_FEED b` (R161). -/
def execFrFeed (b : Byte) (s : State) : Host.Outcome State Fault Refusal :=
  .next (respond .none (s.withFr (s.fr.feed s.params.pqDepth b)))

/-- `FR_HAS` (R182). -/
def execFrHas (s : State) : Host.Outcome State Fault Refusal :=
  .next (respond (.bool (decide (s.fr.pq.length > 0))) s)

/-- `FR_POP` (R183). -/
def execFrPop (s : State) : Host.Outcome State Fault Refusal :=
  match s.fr.pq with
  | [] => .next (respond (.pkt none) s)
  | p :: rest => .next (respond (.pkt (some p)) (s.withFr { s.fr with pq := rest }))

/-- `FR_STAT sel` (R185): a reserved selector gives the error response. -/
def execFrStat (sel : Byte) (s : State) : Host.Outcome State Fault Refusal :=
  match statReg sel with
  | some r => .next (respond (.u32 (s.fr.stat r)) s)
  | none => .next (respondErr s)

end Sys2Proof.Machine
end

