-- ==== Sys2Proof/Machine/RingBuffer.lean ====
section
/-! DEFINITION. The operations of the host ring RBX (41_ringbuffer.md R125 to R128). The framer never touches
RBX (R24, R130). -/

namespace Sys2Proof.Machine

/-- `RB_CLR` (R125). -/
def execRbClr (s : State) : Host.Outcome State Fault Refusal :=
  .next (respond .none (s.withRbx s.rbx.clear))

/-- `RB_WR b` (R126). -/
def execRbWr (b : Byte) (s : State) : Host.Outcome State Fault Refusal :=
  .next (respond .none (s.withRbx (s.rbx.write s.params.rbxCap b)))

/-- `RB_RD` (R127). -/
def execRbRd (s : State) : Host.Outcome State Fault Refusal :=
  let r := s.rbx.read s.params.rbxCap
  .next (respond (.byte r.1 r.2.1) (s.withRbx r.2.2))

/-- `RB_LEN` (R128): `zext_32(RBX.len)`. -/
def execRbLen (s : State) : Host.Outcome State Fault Refusal :=
  .next (respond (.u32 (zext32 s.rbx.len)) s)

end Sys2Proof.Machine
end

