-- ==== Sys2Proof/Machine/Dispatch.lean ====
section
/-! DEFINITION. The dispatch of 44_block.md R196: one meaning per operation of 30_encoding.md R74. -/

namespace Sys2Proof.Machine

def exec (i : Instr) (s : State) : Host.Outcome State Fault Refusal :=
  match i with
  | .nop => Sys2Proof.Machine.execNop s
  | .crcClr => Sys2Proof.Machine.execCrcClr s
  | .crcUpd b => Sys2Proof.Machine.execCrcUpd b s
  | .crcRd => Sys2Proof.Machine.execCrcRd s
  | .rbClr => Sys2Proof.Machine.execRbClr s
  | .rbWr b => Sys2Proof.Machine.execRbWr b s
  | .rbRd => Sys2Proof.Machine.execRbRd s
  | .rbLen => Sys2Proof.Machine.execRbLen s
  | .frRst => Sys2Proof.Machine.execFrRst s
  | .frFeed b => Sys2Proof.Machine.execFrFeed b s
  | .frHas => Sys2Proof.Machine.execFrHas s
  | .frPop => Sys2Proof.Machine.execFrPop s
  | .frStat sel => Sys2Proof.Machine.execFrStat sel s
  | .enc a body => Sys2Proof.Machine.execEnc a body s

end Sys2Proof.Machine
end

