-- ==== Sys2Proof/Machine/Step.lean ====
section
/-! DEFINITION. One step of the block: perform the next thing the host has issued (44_block.md R196). -/

namespace Sys2Proof.Machine

/-- Perform one transaction (R196): decode it, then its operation's rule, or the error response. -/
def execute (o : Op) (s : State) : Host.Outcome State Fault Refusal :=
  match decode o with
  | .op i => exec i s
  | .reserved why => execReserved why s

/-- One step: the first pending event is taken off the command port and performed, whole (20_memory.md R59,
R60). With nothing pending the state stays as it is (00_scope.md R7; log 2). -/
def step (s : State) : Host.Outcome State Fault Refusal :=
  match s.pending with
  | [] => .next (idle s)
  | .reset :: es => .next (blockReset (s.withPending es))
  | .op o :: es => execute o (s.withPending es)

/-- The state in which the very next step performs the transaction with that word and an empty payload
(log 1, log 13). -/
def State.withFetchWord (s : State) (nbits w : Nat) : State := issueFirst (tableOp nbits w) s

end Sys2Proof.Machine
end

