-- ==== Sys2Proof/Machine/Asm.lean ====
section
/-! DEFINITION. The assembler syntax of 30_encoding.md R81 and the pseudo-instructions of R82: from a line of text
to the operations the host issues for it. Notation only: nothing of the block depends on it. What R81 leaves open
about the text (either case of hexadecimal letters, blanks) is log 18. -/

namespace Sys2Proof.Machine

/-- One line of a program (R81, R82). -/
inductive AsmLine where
  /-- A line with no operation: empty, or a comment only. -/
  | blank
  /-- An operation. -/
  | op (i : Instr)
  /-- `FR_ADD b0, ..., bn`, or `FR_ADD []`. -/
  | frAdd (bytes : List Byte)
  /-- `CRC_BYTES b0, ..., bn`. -/
  | crcBytes (bytes : List Byte)
  /-- `RB_WRS b0, ..., bn`. -/
  | rbWrs (bytes : List Byte)
  /-- `.rep N`. -/
  | rep (n : Nat)
  /-- `.endr`. -/
  | endr
deriving DecidableEq, Repr

/-- The expansion of `FR_ADD` (R82, R160): one `FR_FEED` per byte. -/
def frAdd (bytes : List Byte) : List Instr := bytes.map .frFeed

/-- The expansion of `CRC_BYTES` (R82): `CRC_CLR`, then one `CRC_UPD` per byte. -/
def crcBytes (bytes : List Byte) : List Instr := .crcClr :: bytes.map .crcUpd

/-- The expansion of `RB_WRS` (R82): one `RB_WR` per byte. -/
def rbWrs (bytes : List Byte) : List Instr := bytes.map .rbWr

/-- The operations of one line that is not a directive. -/
def AsmLine.expand : AsmLine → List Instr
  | .blank => []
  | .op i => [i]
  | .frAdd bytes => Machine.frAdd bytes
  | .crcBytes bytes => Machine.crcBytes bytes
  | .rbWrs bytes => Machine.rbWrs bytes
  | .rep _ => []
  | .endr => []

/-- `N` copies of a list of operations, one after another (`.rep`, R82). -/
def repeatOps (n : Nat) (l : List Instr) : List Instr := (List.replicate n l).flatten

/-- Assemble from inside open `.rep` blocks: `outer` holds, innermost first, each open block's count and what
stood before it; `done` is what the current block holds so far. -/
def assembleFrom (outer : List (Nat × List Instr)) (done : List Instr) : List AsmLine → Option (List Instr)
  | [] => match outer with
    | [] => some done
    | _ :: _ => none
  | .rep n :: rest => assembleFrom ((n, done) :: outer) [] rest
  | .endr :: rest => match outer with
    | [] => none
    | (n, before) :: outer' => assembleFrom outer' (before ++ repeatOps n done) rest
  | line :: rest => assembleFrom outer (done ++ line.expand) rest

/-- The operations of a program, none when `.rep` and `.endr` do not pair up. -/
def assemble (lines : List AsmLine) : Option (List Instr) := assembleFrom [] [] lines

/-! ### The text -/

/-- A token of a line: a word, or one of the marks of R81. -/
inductive Token where
  | word (cs : List Char)
  | comma
  | openBracket
  | closeBracket
deriving DecidableEq, Repr

/-- The word read so far, if any, as a token in front of the rest. -/
def flushWord (cur : List Char) (rest : List Token) : List Token :=
  if cur = [] then rest else .word cur.reverse :: rest

/-- The tokens of a line, up to the `;` of a comment; `cur` is the word being read, last letter first. -/
def tokensFrom (cur : List Char) : List Char → List Token
  | [] => flushWord cur []
  | c :: cs =>
    if c = ';' then flushWord cur []
    else if c = ',' then flushWord cur (.comma :: tokensFrom [] cs)
    else if c = '[' then flushWord cur (.openBracket :: tokensFrom [] cs)
    else if c = ']' then flushWord cur (.closeBracket :: tokensFrom [] cs)
    else if c = ' ' ∨ c = '\t' then flushWord cur (tokensFrom [] cs)
    else tokensFrom (c :: cur) cs

/-- A decimal digit. -/
def decDigit (c : Char) : Option Nat :=
  if '0' ≤ c ∧ c ≤ '9' then some (c.toNat - '0'.toNat) else none

/-- A hexadecimal digit, of either case (log 18). -/
def hexDigit (c : Char) : Option Nat :=
  if 'A' ≤ c ∧ c ≤ 'F' then some (c.toNat - 'A'.toNat + 10)
  else if 'a' ≤ c ∧ c ≤ 'f' then some (c.toNat - 'a'.toNat + 10)
  else decDigit c

/-- A decimal number, its digits read after `acc`. -/
def decimalFrom (acc : Nat) : List Char → Option Nat
  | [] => some acc
  | c :: cs => match decDigit c with
    | some d => decimalFrom (acc * 10 + d) cs
    | none => none

/-- A decimal number of at least one digit. -/
def decimal (cs : List Char) : Option Nat := if cs = [] then none else decimalFrom 0 cs

/-- `imm8 := 0xHH | decimal 0..255` (R81). -/
def imm8 (cs : List Char) : Option Byte :=
  match cs with
  | ['0', 'x', h, l] => match hexDigit h, hexDigit l with
    | some h', some l' => some (BitVec.ofNat 8 (16 * h' + l'))
    | _, _ => none
  | _ => match decimal cs with
    | some n => if n ≤ 255 then some (BitVec.ofNat 8 n) else none
    | none => none

/-- A selector: `imm8`, or a selector name of 10_state.md R32. -/
def selectorByte (cs : List Char) : Option Byte :=
  if cs = "TOTAL".toList then some 0x00
  else if cs = "DROPPED".toList then some 0x01
  else if cs = "STREAK".toList then some 0x02
  else if cs = "BADCNT".toList then some 0x03
  else if cs = "RATIO".toList then some 0x04
  else if cs = "PQCNT".toList then some 0x05
  else if cs = "PQOVF".toList then some 0x06
  else imm8 cs

/-- `imm8 , ... , imm8` up to the closing tokens `stop`. -/
def immList (stop : List Token) : List Token → Option (List Byte)
  | .word w :: .comma :: rest => match imm8 w, immList stop rest with
    | some b, some bs => some (b :: bs)
    | _, _ => none
  | .word w :: rest => if rest = stop then (imm8 w).map (fun b => [b]) else none
  | _ => none

/-- The bracketed body of `ENC`, after its opening bracket. -/
def bracketed (ts : List Token) : Option (List Byte) :=
  if ts = [.closeBracket] then some [] else immList [.closeBracket] ts

/-- An operation that takes one `imm8`. -/
def withImm (f : Byte → Instr) : List Token → Option AsmLine
  | [.word w] => (imm8 w).map (fun b => .op (f b))
  | _ => none

/-- An operation that takes no operand. -/
def withNone (i : Instr) (ts : List Token) : Option AsmLine := if ts = [] then some (.op i) else none

/-- The operands of a mnemonic, already in capitals (R81: mnemonics are case-insensitive). -/
def parseOperands (m : List Char) (ts : List Token) : Option AsmLine :=
  if m = "NOP".toList then withNone .nop ts
  else if m = "CRC_CLR".toList then withNone .crcClr ts
  else if m = "CRC_UPD".toList then withImm .crcUpd ts
  else if m = "CRC_RD".toList then withNone .crcRd ts
  else if m = "RB_CLR".toList then withNone .rbClr ts
  else if m = "RB_WR".toList then withImm .rbWr ts
  else if m = "RB_RD".toList then withNone .rbRd ts
  else if m = "RB_LEN".toList then withNone .rbLen ts
  else if m = "FR_RST".toList then withNone .frRst ts
  else if m = "FR_FEED".toList then withImm .frFeed ts
  else if m = "FR_HAS".toList then withNone .frHas ts
  else if m = "FR_POP".toList then withNone .frPop ts
  else if m = "FR_STAT".toList then match ts with
    | [.word w] => (selectorByte w).map (fun b => .op (.frStat b))
    | _ => none
  else if m = "ENC".toList then match ts with
    | .word a :: .comma :: .openBracket :: rest => match imm8 a, bracketed rest with
      | some a', some body => some (.op (.enc a' body))
      | _, _ => none
    | _ => none
  else if m = "FR_ADD".toList then
    if ts = [.openBracket, .closeBracket] then some (.frAdd []) else (immList [] ts).map .frAdd
  else if m = "CRC_BYTES".toList then (immList [] ts).map .crcBytes
  else if m = "RB_WRS".toList then (immList [] ts).map .rbWrs
  else if m = ".REP".toList then match ts with
    | [.word w] => (decimal w).map .rep
    | _ => none
  else if m = ".ENDR".toList then if ts = [] then some .endr else none
  else none

/-- One line of text (R81), none where it is no line of the syntax. -/
def parseLine (line : List Char) : Option AsmLine :=
  match tokensFrom [] line with
  | [] => some .blank
  | .word m :: ts => parseOperands (m.map Char.toUpper) ts
  | _ => none

/-- The lines of a program. -/
def parseLines : List (List Char) → Option (List AsmLine)
  | [] => some []
  | l :: ls => match parseLine l, parseLines ls with
    | some a, some as => some (a :: as)
    | _, _ => none

/-- The operations of a program given as lines of text (R81, R82). -/
def assembleText (lines : List String) : Option (List Instr) :=
  match parseLines (lines.map String.toList) with
  | some ls => assemble ls
  | none => none

/-- The transactions an assembled program is written as (R81): one word each, with the payload of `ENC`. -/
def assembledOps (is : List Instr) : List Op := is.map encode

end Sys2Proof.Machine
end

