-- ==== Sys2Proof/Machine/Flags.lean ====
section
/-! DEFINITION. The status conditions of 10_state.md R31 and the output of 60_exceptions.md R206. The block has
no flag register: each condition is a function of the state. -/

namespace Sys2Proof.Machine

/-- `rb.len = 0` (R31). -/
def Ring.isEmpty (r : Ring) : Bool := decide (r.len = 0)

/-- `rb.len = rb.cap` (R31). -/
def Ring.isFull (cap : Nat) (r : Ring) : Bool := decide (r.len.toNat = cap)

/-- RBX empty (R31). -/
def State.rbxEmpty (s : State) : Bool := s.rbx.isEmpty

/-- RBX full (R31). -/
def State.rbxFull (s : State) : Bool := s.rbx.isFull s.params.rbxCap

/-- Packet available, the level output `pkt_avail = (len(PQ) > 0)` (R31, R206). -/
def State.pktAvail (s : State) : Bool := decide (s.fr.pq.length > 0)

end Sys2Proof.Machine
end

