-- ==== Sys2Proof/Machine/Events.lean ====
section
/-! DEFINITION. The events the block can detect (60_exceptions.md R201 to R205, R207). No register holds an event
code and no operation returns one: what an event records is in the operation's meaning, and the list below only
names when each occurs. -/

namespace Sys2Proof.Machine

/-- The rows of R201's table. -/
inductive Event where
  /-- `EV1 FramingNoise` (R202). -/
  | framingNoise
  /-- `EV2 ChecksumMismatch` (R203). -/
  | checksumMismatch
  /-- `EV3 OversizedLength` (R204). -/
  | oversizedLength
  /-- `EV4` reserved operation (R205). -/
  | reservedOperation
  /-- `EV5` packet-queue overflow (R181). -/
  | queueOverflow
  /-- The row without a code: ring overwrite (R124). -/
  | ringOverwrite
deriving DecidableEq, Repr

/-- The event's code number in R201's table, none for the ring overwrite. -/
def Event.code : Event → Option Nat
  | .framingNoise => some 1
  | .checksumMismatch => some 2
  | .oversizedLength => some 3
  | .reservedOperation => some 4
  | .queueOverflow => some 5
  | .ringOverwrite => none

/-- The events `FR_FEED b` raises in a framer state (R201). -/
def Framer.events (depth : Nat) (b : Byte) (f : Framer) : List Event :=
  match f.fst with
  | .awaitingStx => if b ≠ Config.stx then [.framingNoise] else []
  | .address => []
  | .lengthLow => []
  | .lengthHigh => if (joinBytes b f.fLenLo).toNat ≥ Config.maxLen then [.oversizedLength] else []
  | .body => []
  | .checksumLow => []
  | .checksumHigh =>
    if f.fCrc ≠ joinBytes b f.fCkLo then [.checksumMismatch]
    else if f.pq.length = depth then [.queueOverflow] else []

/-- The events an operation raises (R201). -/
def eventsOf (i : Instr) (s : State) : List Event :=
  match i with
  | .nop | .crcClr | .crcUpd _ | .crcRd | .rbClr | .rbRd | .rbLen | .frRst | .frHas | .frPop => []
  | .rbWr _ => if s.rbxFull then [.ringOverwrite] else []
  | .frFeed b => s.fr.events s.params.pqDepth b
  | .frStat sel => if selectorOk sel then [] else [.reservedOperation]
  | .enc _ body => if bodyOk body then [] else [.reservedOperation]

/-- The events a transaction raises: a reserved operation raises `EV4` alone (R207). -/
def opEvents (o : Op) (s : State) : List Event :=
  match decode o with
  | .op i => eventsOf i s
  | .reserved _ => [.reservedOperation]

end Sys2Proof.Machine
end

