-- ==== Sys2Proof/Safety.lean ====
section
/-! DEFINITION. What counts as a safe state and a safe run, in the terms the statements use: the invariants of
41_ringbuffer.md R120 and 43_framer.md R187 to R189, sequences of operations, and the observation of a run
(70_reset_and_hazards.md R229). -/

namespace Sys2Proof.Machine

/-! ### Invariants -/

/-- R120, with the storage in canonical form and inside the ring's capacity. -/
structure Ring.Inv (cap : Nat) (r : Ring) : Prop where
  len_le : r.len.toNat ≤ cap
  head_lt : r.head.toNat < cap
  tail_lt : r.tail.toNat < cap
  tail_eq : r.tail.toNat = (r.head.toNat + r.len.toNat) % cap
  mem_wf : Memory.wf r.mem = true
  mem_lt : ∀ c ∈ r.mem, c.1 < cap

/-- The table of R187: what ACC and `fRem` hold in each framer state. -/
def Framer.InFlight (f : Framer) : Prop :=
  match f.fst with
  | .awaitingStx | .address | .lengthLow | .lengthHigh => f.acc.len = 0 ∧ f.fRem = 0
  | .body =>
    f.acc.len.toNat = f.fLen.toNat - f.fRem.toNat ∧
      1 ≤ f.fRem.toNat ∧ f.fRem.toNat ≤ f.fLen.toNat ∧ f.fLen.toNat ≤ 1023
  | .checksumLow | .checksumHigh => f.acc.len.toNat = f.fLen.toNat ∧ f.fLen.toNat ≤ 1023 ∧ f.fRem = 0

/-- R187, with R120 for ACC. -/
structure Framer.Inv (depth : Nat) (f : Framer) : Prop where
  acc_inv : f.acc.Inv Config.accCap
  inFlight : f.InFlight
  dropped_le : f.droppedBytes.toNat ≤ f.totalBytesSeen.toNat
  total_le : f.totalBytesSeen.toNat ≤ 0x10000
  pq_le : f.pq.length ≤ depth

/-- R189: the running CRC is the fold of `crcStep` over the bytes of the current frame received so far,
checksum bytes excluded. -/
def Framer.RunningCrc (f : Framer) : Prop :=
  match f.fst with
  | .awaitingStx => True
  | .address => (f.fCrc, f.fPrev) = crcFold (0x0000, 0x00) [0x02]
  | .lengthLow => (f.fCrc, f.fPrev) = crcFold (0x0000, 0x00) [0x02, f.fAddr]
  | .lengthHigh => (f.fCrc, f.fPrev) = crcFold (0x0000, 0x00) [0x02, f.fAddr, f.fLenLo]
  | .body | .checksumLow | .checksumHigh =>
    (f.fCrc, f.fPrev) =
      crcFold (0x0000, 0x00) ([0x02, f.fAddr, lowByte f.fLen, highByte f.fLen] ++ f.acc.contents Config.accCap)

/-- What R188 says of an emitted packet, the length invariant of 42_packet.md R147 among it. -/
structure Packet.Good (p : Packet) : Prop where
  valid : p.isValid = true
  length_eq : p.body.length = p.length.toNat
  length_le : p.length.toNat ≤ 1023

/-- The structural invariant of a block: its parameters in range (00_scope.md R10), both rings (R120) and the
framer (R187). -/
structure State.Inv (s : State) : Prop where
  params_ok : s.params.Ok
  rbx_inv : s.rbx.Inv s.params.rbxCap
  fr_inv : s.fr.Inv s.params.pqDepth

/-- Every packet waiting in the queue is good (R188). -/
def State.QueueGood (s : State) : Prop := ∀ p ∈ s.fr.pq, p.Good

/-! ### Runs -/

/-- The step completes: it answers a next state (R199: no operation stops or halts the block). -/
def SafeStep (s : State) : Prop := ∃ t, step s = .next t

/-- Perform operations one after another (20_memory.md R59), stopping at a fault or a refusal. -/
def execAll : List Instr → State → Host.Outcome State Fault Refusal
  | [], s => .next s
  | i :: is, s =>
    match exec i s with
    | .next t => execAll is t
    | .fault r => .fault r
    | .refused r => .refused r

/-- Feed bytes to a framer one after another: the source's `add(bytes)` (R160). -/
def Framer.feedAll (depth : Nat) (l : List Byte) (f : Framer) : Framer :=
  l.foldl (fun g b => g.feed depth b) f

/-- The run of a program (R229): its operations are issued in order from a start state, and the run ends after
the response to the last one. -/
def runProgram (program : List Op) (s : State) : Host.Outcome State Fault Refusal :=
  Sys2Proof.core.run program.length (s.withPending (program.map .op))

/-- The framer as R229 lets it be observed: ACC is its stored bytes, oldest first (R129). -/
structure FramerView where
  fst : FramerState
  header : Byte × Byte × U16 × U16 × Byte
  crc : U16 × Byte
  acc : List Byte
  stats : Counter × Counter × StreakCounter × Counter × Counter
  pq : List Packet
deriving DecidableEq, Repr

/-- The observation of a run's end (R229): the list of responses and the final state, without the ring storage
slots that hold no stored byte. -/
structure Observation where
  responses : List Response
  crcu : Crcu
  rbx : List Byte
  fr : FramerView
deriving DecidableEq, Repr

/-- The framer, its accumulator as its contents only. -/
def Framer.view (f : Framer) : FramerView :=
  { fst := f.fst
    header := (f.fAddr, f.fLenLo, f.fLen, f.fRem, f.fCkLo)
    crc := (f.fCrc, f.fPrev)
    acc := f.acc.contents Config.accCap
    stats := (f.totalBytesSeen, f.droppedBytes, f.badPacketStreak, f.badPacketCount, f.pqOverflow)
    pq := f.pq }

/-- What R229 lets one observe of a state. -/
def State.observe (s : State) : Observation :=
  { responses := s.responses, crcu := s.crcu, rbx := s.rbx.contents s.params.rbxCap, fr := s.fr.view }

end Sys2Proof.Machine
end

