-- ==== Sys2Proof/Certificates/Slice0/Obligations.lean ====
section
/-! DEFINITION. The statements for the provers. Each formalises a rule of spec/ that its docstring names. -/

open Sys2Proof Sys2Proof.Machine

/-! ### Encoding -/

/-- R71, R74: an encoded operation decodes to itself, every operand at every value. -/
def Obligations.DecodeOfEncodeIsTheOperation : Prop := ∀ i : Instr, decode (encode i) = .op i

/-- R74, R75: a transaction that decodes to an operation is that operation's one encoding. -/
def Obligations.EncodeOfDecodedIsTheTransaction : Prop :=
  ∀ (o : Op) (i : Instr), decode o = .op i → encode i = o

/-- R75, R78: which transactions are reserved, and by which of the three steps. -/
def Obligations.ReservedExactlyAsListed : Prop :=
  ∀ o : Op,
    let listed := o.opc ∈ [0x00#8, 0x01#8, 0x02#8, 0x03#8, 0x10#8, 0x11#8, 0x12#8, 0x13#8,
      0x20#8, 0x21#8, 0x22#8, 0x23#8, 0x24#8, 0x30#8]
    let payloadForm := o.opc ≠ 0x30#8 ∧ o.payload ≠ []
    let argForm := o.opc ∈ [0x00#8, 0x01#8, 0x03#8, 0x10#8, 0x12#8, 0x13#8, 0x20#8, 0x22#8, 0x23#8] ∧ o.arg ≠ 0#8
    (decode o = .reserved .opcode ↔ ¬ listed) ∧
    (decode o = .reserved .payload ↔ listed ∧ payloadForm) ∧
    (decode o = .reserved .argument ↔ listed ∧ ¬ payloadForm ∧ argForm) ∧
    ((∃ i, decode o = .op i) ↔ listed ∧ ¬ payloadForm ∧ ¬ argForm)

/-- R74: words written out from the opcode map decode to their operations. -/
def Obligations.OpcodeMapWordsDecode : Prop :=
  decode { word := 0b0000000000000000, payload := [] } = .op .nop ∧
  decode { word := 0b0000000100000000, payload := [] } = .op .crcClr ∧
  decode { word := 0b0000001000110001, payload := [] } = .op (.crcUpd 0x31) ∧
  decode { word := 0b0001000111000001, payload := [] } = .op (.rbWr 0xC1) ∧
  decode { word := 0b0001001000000000, payload := [] } = .op .rbRd ∧
  decode { word := 0b0010000100000010, payload := [] } = .op (.frFeed 0x02) ∧
  decode { word := 0b0010010000000100, payload := [] } = .op (.frStat 0x04) ∧
  decode { word := 0b0011000000000101, payload := [0x31] } = .op (.enc 0x05 [0x31])

/-! ### Steps, responses, runs -/

/-- R196: a step whose next transaction decodes to an operation is that operation's `exec`, in the state with the
transaction taken off the command port. -/
def Obligations.StepPerformsTheDecodedOperation : Prop :=
  ∀ (s : State) (o : Op) (es : List PortEvent) (i : Instr),
    s.pending = .op o :: es → decode o = .op i → step s = exec i { s with pending := es }

/-- R77, R78, R205: a reserved operation gives the error response and changes nothing else. -/
def Obligations.ReservedOperationGivesErrorResponse : Prop :=
  ∀ (s : State) (o : Op) (es : List PortEvent) (why : Reserved),
    s.pending = .op o :: es → decode o = .reserved why →
    step s = .next { s with pending := es, responses := s.responses ++ [{ err := true, val := .none }] }

/-- R220, R221: the reset event puts every piece of state at its reset value and returns no response. (That the
ring storage itself is left open is the spec's; what the model puts there is log 5 and is not claimed.) -/
def Obligations.ResetEventPutsResetValues : Prop :=
  ∀ (s : State) (es : List PortEvent), s.pending = .reset :: es →
    ∃ t, step s = .next t ∧
      t.crcu = { crc := 0x0000, prev := 0x00 } ∧
      t.rbx.head = 0 ∧ t.rbx.tail = 0 ∧ t.rbx.len = 0 ∧
      t.fr = { fst := .awaitingStx, fAddr := 0x00, fLenLo := 0x00, fLen := 0x0000, fRem := 0x0000,
               fCkLo := 0x00, fCrc := 0x0000, fPrev := 0x00, acc := t.fr.acc, totalBytesSeen := 0,
               droppedBytes := 0, badPacketStreak := 0, badPacketCount := 0, pqOverflow := 0, pq := [] } ∧
      t.fr.acc.head = 0 ∧ t.fr.acc.tail = 0 ∧ t.fr.acc.len = 0 ∧
      t.pktAvail = false ∧
      t.params = s.params ∧ t.pending = es ∧ t.responses = s.responses

/-- R221: the values of the state right after reset. -/
def Obligations.StateResetHoldsTheTabledValues : Prop :=
  State.reset.crcu.crc = 0x0000 ∧ State.reset.crcu.prev = 0x00 ∧
  State.reset.rbx.head = 0 ∧ State.reset.rbx.tail = 0 ∧ State.reset.rbx.len = 0 ∧
  State.reset.fr.acc.head = 0 ∧ State.reset.fr.acc.tail = 0 ∧ State.reset.fr.acc.len = 0 ∧
  State.reset.fr.fst = .awaitingStx ∧
  State.reset.fr.fAddr = 0 ∧ State.reset.fr.fLenLo = 0 ∧ State.reset.fr.fLen = 0 ∧
  State.reset.fr.fRem = 0 ∧ State.reset.fr.fCkLo = 0 ∧
  State.reset.fr.fCrc = 0x0000 ∧ State.reset.fr.fPrev = 0x00 ∧
  State.reset.fr.totalBytesSeen = 0 ∧ State.reset.fr.droppedBytes = 0 ∧
  State.reset.fr.badPacketStreak = 0 ∧ State.reset.fr.badPacketCount = 0 ∧ State.reset.fr.pqOverflow = 0 ∧
  State.reset.fr.pq = [] ∧ State.reset.pktAvail = false

/-- R199: no operation, no reserved form and no event stops the block. The second clause is the model's own choice
(log 2): a step with nothing issued leaves the state as it is, the model's form of R7. -/
def Obligations.EveryStepAnswersANextState : Prop :=
  ∀ s : State, SafeStep s ∧ (s.pending = [] → step s = .next s)

/-- R76: every operation returns one response, of the kind the table gives it. -/
def Obligations.OneResponseOfTheTabledKind : Prop :=
  ∀ (i : Instr) (s : State), ∃ (t : State) (r : Response),
    exec i s = .next t ∧ t.responses = s.responses ++ [r] ∧
    t.pending = s.pending ∧ t.params = s.params ∧
    (r.err = true → r.val = .none) ∧
    (r.err = false →
      match i with
      | .nop | .crcClr | .crcUpd _ | .rbClr | .rbWr _ | .frRst | .frFeed _ => r.val = .none
      | .rbRd => ∃ v d, r.val = .byte v d
      | .crcRd => ∃ v, r.val = .u16 v
      | .rbLen | .frStat _ => ∃ v, r.val = .u32 v
      | .frHas => ∃ v, r.val = .bool v
      | .frPop => ∃ p, r.val = .pkt p
      | .enc _ _ => ∃ l, r.val = .frame l)

/-- R77, R185, R145: which operations give the error response, and that it changes no state at all. -/
def Obligations.ErrorResponseOnlyForBadOperands : Prop :=
  ∀ (i : Instr) (s t : State), exec i s = .next t →
    (t.responses = s.responses ++ [{ err := true, val := .none }] ↔
      (∃ sel, i = .frStat sel ∧ 7 ≤ sel.toNat) ∨ (∃ a body, i = .enc a body ∧ 1023 < body.length)) ∧
    (t.responses = s.responses ++ [{ err := true, val := .none }] →
      t = { s with responses := s.responses ++ [{ err := true, val := .none }] })

/-- R59, R196, R229: the run of an encoded program performs its operations in issue order. -/
def Obligations.RunPerformsOperationsInIssueOrder : Prop :=
  ∀ (is : List Instr) (s : State), s.pending = [] → runProgram (assembledOps is) s = execAll is s

/-- The word the host places for a row of the opcode table is performed by the very next step (log 13). -/
def Obligations.FetchWordIsPerformedNext : Prop :=
  ∀ (s : State) (w : Nat) (i : Instr),
    decodeTableWord 16 w = some i → step (s.withFetchWord 16 w) = exec i s

/-- R195. -/
def Obligations.NopOnlyResponds : Prop :=
  encode .nop = { word := 0x0000, payload := [] } ∧
  ∀ s : State, exec .nop s = .next { s with responses := s.responses ++ [{ err := false, val := .none }] }

/-- R82, with the words of R71: what the pseudo-instructions are sent as. -/
def Obligations.PseudoInstructionsAsWords : Prop :=
  ∀ l : List Byte,
    assembledOps (frAdd l) = l.map (fun b => { word := 0x21#8 ++ b, payload := [] }) ∧
    assembledOps (crcBytes l) =
      { word := 0x0100, payload := [] } :: l.map (fun b => { word := 0x02#8 ++ b, payload := [] }) ∧
    assembledOps (rbWrs l) = l.map (fun b => { word := 0x11#8 ++ b, payload := [] }) ∧
    (∀ n, assemble [.rep n, .frAdd l, .endr] =
      some ((List.replicate n l).flatten.map .frFeed))

/-! ### CRC -/

/-- R102: the step as a circuit builds it; R103: the empty list, leading zero bytes, the two worked corner steps. -/
def Obligations.CrcStepCircuitFormAndCornerCases : Prop :=
  (∀ (c : U16) (p b : Byte),
    crcStep c p b = ((c <<< 1) ^^^ (if c.getLsbD 15 then 0x8005 else 0x0000) ^^^ (p ++ b : BitVec 16), b)) ∧
  crc16 [] = 0x0000 ∧
  (∀ (n : Nat) (l : List Byte), crc16 (List.replicate n 0x00 ++ l) = crc16 l) ∧
  crcStep 0x8000 0x00 0x00 = (0x8005, 0x00) ∧ crcStep 0xFFFF 0xFF 0xFF = (0x8004, 0xFF)

/-- R105. -/
def Obligations.CrcClrClearsTheUnit : Prop :=
  encode .crcClr = { word := 0x0100, payload := [] } ∧
  ∀ s : State, exec .crcClr s =
    .next { s with crcu := { crc := 0x0000, prev := 0x00 }
                   responses := s.responses ++ [{ err := false, val := .none }] }

/-- R106, with the step in R102's form. -/
def Obligations.CrcUpdFoldsOneByte : Prop :=
  (∀ b, encode (.crcUpd b) = { word := 0x02#8 ++ b, payload := [] }) ∧
  ∀ (b : Byte) (s : State), exec (.crcUpd b) s =
    .next { s with
      crcu := { crc := (s.crcu.crc <<< 1) ^^^ (if s.crcu.crc.getLsbD 15 then 0x8005 else 0x0000)
                         ^^^ (s.crcu.prev ++ b : BitVec 16)
                prev := b }
      responses := s.responses ++ [{ err := false, val := .none }] }

/-- R107. -/
def Obligations.CrcRdReturnsTheCrc : Prop :=
  encode .crcRd = { word := 0x0300, payload := [] } ∧
  ∀ s : State, exec .crcRd s =
    .next { s with responses := s.responses ++ [{ err := false, val := .u16 s.crcu.crc }] }

/-- R108: from a clear unit, however it came to be clear, the updates of any stream of operations (none of them a
CRC_CLR, operations of other units in between) leave the CRC of the bytes folded in, and CRC_RD returns it. The same
from any state when the stream is put behind a CRC_CLR. -/
def Obligations.CrcUpdatesComputeCrc16 : Prop :=
  ∀ (is : List Instr) (s : State), (∀ i ∈ is, i ≠ .crcClr) →
    let bytes := is.filterMap (fun i => match i with | .crcUpd b => some b | _ => none)
    let computes := fun (program : List Instr) =>
      ∃ t u, execAll program s = .next t ∧
        t.crcu = { crc := crc16 bytes, prev := bytes.getLastD 0x00 } ∧
        exec .crcRd t = .next u ∧
        u.responses = t.responses ++ [{ err := false, val := .u16 (crc16 bytes) }]
    (s.crcu = { crc := 0x0000, prev := 0x00 } → computes is) ∧ computes (.crcClr :: is)

/-! ### Ring buffers -/

/-- R120: the ring invariant holds of a cleared ring and every primitive keeps it; head and tail meet exactly
where the ring is empty or full. -/
def Obligations.RingPrimitivesKeepTheInvariant : Prop :=
  ∀ (cap : Nat) (r : Ring) (b : Byte), 1 ≤ cap → cap ≤ 65535 → r.Inv cap →
    Ring.reset.Inv cap ∧ r.clear.Inv cap ∧ (r.write cap b).Inv cap ∧ (r.read cap).2.2.Inv cap ∧
    (r.head = r.tail ↔ r.len.toNat = 0 ∨ r.len.toNat = cap)

/-- R129: the primitives on the list of stored bytes. -/
def Obligations.RingPrimitivesOnContents : Prop :=
  ∀ (cap : Nat) (r : Ring) (b : Byte), 1 ≤ cap → cap ≤ 65535 → r.Inv cap →
    let c := r.contents cap
    r.clear.contents cap = [] ∧
    (r.write cap b).contents cap = (if c.length < cap then c ++ [b] else c.drop 1 ++ [b]) ∧
    (c = [] → r.read cap = (false, 0x00, r)) ∧
    (∀ d rest, c = d :: rest →
      (r.read cap).1 = true ∧ (r.read cap).2.1 = d ∧ ((r.read cap).2.2).contents cap = rest)

/-- R125, R121. -/
def Obligations.RbClrEmptiesTheRing : Prop :=
  encode .rbClr = { word := 0x1000, payload := [] } ∧
  ∀ s : State,
    exec .rbClr s =
      .next { s with rbx := { head := 0, tail := 0, len := 0, mem := s.rbx.mem }
                     responses := s.responses ++ [{ err := false, val := .none }] } ∧
    ∀ t, exec .rbClr s = .next t →
      t.rbx.contents t.params.rbxCap = [] ∧ t.rbxEmpty = true ∧ (1 ≤ t.params.rbxCap → t.rbxFull = false)

/-- R126, R124: the pointers, the length and every slot after a write; only the slot at the tail changes. -/
def Obligations.RbWrStoresAtTheTail : Prop :=
  (∀ b, encode (.rbWr b) = { word := 0x11#8 ++ b, payload := [] }) ∧
  ∀ (b : Byte) (s : State), s.params.Ok → Memory.wf s.rbx.mem = true →
    let cap := s.params.rbxCap
    ∃ (t : State) (m : Memory),
      exec (.rbWr b) s = .next t ∧
      t = { s with
        rbx := { head := if s.rbx.len.toNat = cap then BitVec.ofNat 16 ((s.rbx.head.toNat + 1) % cap) else s.rbx.head
                 tail := BitVec.ofNat 16 ((s.rbx.tail.toNat + 1) % cap)
                 len := if s.rbx.len.toNat = cap then s.rbx.len else s.rbx.len + 1
                 mem := m }
        responses := s.responses ++ [{ err := false, val := .none }] } ∧
      Memory.read m s.rbx.tail.toNat = b ∧
      ∀ a, a ≠ s.rbx.tail.toNat → Memory.read m a = Memory.read s.rbx.mem a

/-- R124, R227: writing any bytes to the host ring keeps the newest `RBX_CAP` of what was there and what came. -/
def Obligations.RbWritesKeepTheNewestBytes : Prop :=
  ∀ (l : List Byte) (s : State), s.params.Ok → s.rbx.Inv s.params.rbxCap →
    let all := s.rbx.contents s.params.rbxCap ++ l
    ∃ t, execAll (rbWrs l) s = .next t ∧
      t.rbx.Inv s.params.rbxCap ∧
      t.rbx.contents s.params.rbxCap = all.drop (all.length - s.params.rbxCap) ∧
      t.rbxFull = decide (s.params.rbxCap ≤ all.length) ∧
      t.crcu = s.crcu ∧ t.fr = s.fr

/-- R127, R122: an empty read answers `BYTE(0, 0x00)` and changes nothing; any other read takes the byte at the
head and moves the head. -/
def Obligations.RbRdTakesTheByteAtTheHead : Prop :=
  encode .rbRd = { word := 0x1200, payload := [] } ∧
  ∀ s : State,
    (s.rbx.len = 0 → exec .rbRd s =
      .next { s with responses := s.responses ++ [{ err := false, val := .byte false 0x00 }] }) ∧
    (s.rbx.len ≠ 0 → exec .rbRd s =
      .next { s with
        rbx := { head := BitVec.ofNat 16 ((s.rbx.head.toNat + 1) % s.params.rbxCap)
                 tail := s.rbx.tail
                 len := s.rbx.len - 1
                 mem := s.rbx.mem }
        responses := s.responses ++ [{ err := false, val := .byte true (Memory.read s.rbx.mem s.rbx.head.toNat) }] })

/-- R127, R129: reading as often as bytes are stored returns them all, oldest first, and leaves the ring empty. -/
def Obligations.RbReadsReturnTheContentsInOrder : Prop :=
  ∀ s : State, s.params.Ok → s.rbx.Inv s.params.rbxCap →
    ∃ t, execAll (List.replicate (s.rbx.contents s.params.rbxCap).length .rbRd) s = .next t ∧
      t.responses = s.responses ++
        (s.rbx.contents s.params.rbxCap).map (fun d => { err := false, val := .byte true d }) ∧
      t.rbx.contents s.params.rbxCap = [] ∧ t.rbxEmpty = true ∧ t.crcu = s.crcu ∧ t.fr = s.fr

/-- R128, R23: the length returned is the number of stored bytes, and no state changes; by R120 it is at most the
capacity. -/
def Obligations.RbLenReturnsTheNumberOfStoredBytes : Prop :=
  encode .rbLen = { word := 0x1300, payload := [] } ∧
  ∀ s : State,
    exec .rbLen s = .next { s with responses := s.responses ++
      [{ err := false, val := .u32 (BitVec.ofNat 32 (s.rbx.contents s.params.rbxCap).length) }] } ∧
    (s.rbx.Inv s.params.rbxCap → (s.rbx.contents s.params.rbxCap).length ≤ s.params.rbxCap)

/-! ### Packets and the encoder -/

/-- R141 to R144: the derived fields of a packet record and its wire form. -/
def Obligations.PacketDerivedFields : Prop :=
  ∀ p : Packet,
    let header : List Byte := [0x02, p.address, BitVec.ofNat 8 p.length.toNat, BitVec.ofNat 8 (p.length.toNat / 256)]
    (p.length = 0 → p.command = none) ∧
    (∀ c rest, p.length ≠ 0 → p.body = c :: rest → p.command = some c) ∧
    p.calculatedChecksum = crc16 (header ++ p.body) ∧
    (p.isValid = true ↔ crc16 (header ++ p.body) = p.checksum) ∧
    p.wire = header ++ p.body ++
      [BitVec.ofNat 8 p.checksum.toNat, BitVec.ofNat 8 (p.checksum.toNat / 256)] ∧
    (p.body.length = p.length.toNat → p.wire.length = 6 + p.length.toNat)

/-- R145: the frame, or the error response for more than 1023 body bytes; no state changes. -/
def Obligations.EncReturnsTheFrame : Prop :=
  (∀ a body, encode (.enc a body) = { word := 0x30#8 ++ a, payload := body }) ∧
  ∀ (a : Byte) (body : List Byte) (s : State),
    let h : List Byte := [0x02, a, BitVec.ofNat 8 body.length, BitVec.ofNat 8 (body.length / 256)]
    let c := (crc16 (h ++ body)).toNat
    exec (.enc a body) s =
      .next { s with responses := s.responses ++
        [if 1023 < body.length then { err := true, val := .none }
         else { err := false, val := .frame (h ++ body ++ [BitVec.ofNat 8 c, BitVec.ofNat 8 (c / 256)]) }] }

/-- R143, R145, R147: what ENC sends is the wire form of a valid packet whose length field is its body's. -/
def Obligations.EncFrameIsTheWireFormOfAGoodPacket : Prop :=
  ∀ (a : Byte) (body : List Byte) (s : State), body.length ≤ 1023 →
    ∃ (p : Packet) (t : State),
      p.Good ∧ p.address = a ∧ p.body = body ∧ p.wire.length = 6 + body.length ∧
      exec (.enc a body) s = .next t ∧
      t.responses = s.responses ++ [{ err := false, val := .frame p.wire }]

/-! ### The framer, byte by byte. Each statement on a state gives the whole next state, but in states other than
AwaitingStx for the two byte counters, which
`FeedCountsAndDecays` gives. -/

/-- R162, R163, R177: the byte count, the noise count and their decay, for every byte in every framer state. -/
def Obligations.FeedCountsAndDecays : Prop :=
  (∀ b, encode (.frFeed b) = { word := 0x21#8 ++ b, payload := [] }) ∧
  ∀ (b : Byte) (s : State), ∃ t, exec (.frFeed b) s = .next t ∧
    let n := s.fr.totalBytesSeen + 1
    let d := if s.fr.fst = .awaitingStx ∧ b ≠ 0x02 then s.fr.droppedBytes + 1 else s.fr.droppedBytes
    if 0x10000 < n.toNat then
      t.fr.totalBytesSeen.toNat = n.toNat * 4 / 5 ∧ t.fr.droppedBytes.toNat = d.toNat * 4 / 5
    else t.fr.totalBytesSeen = n ∧ t.fr.droppedBytes = d

/-- R163, between the count of R162 and the decay of R177: an STX starts a fresh running CRC and a frame, any other
byte is noise. The whole next state, both counters included. -/
def Obligations.FeedInAwaitingStx : Prop :=
  ∀ (b : Byte) (s : State), s.fr.fst = .awaitingStx →
    let n := s.fr.totalBytesSeen + 1
    let d := if b = 0x02 then s.fr.droppedBytes else s.fr.droppedBytes + 1
    let decay := fun (v : U32) => if 0x10000 < n.toNat then BitVec.ofNat 32 (v.toNat * 4 / 5) else v
    exec (.frFeed b) s = .next { s with
      fr := { s.fr with
        fst := if b = 0x02 then .address else .awaitingStx
        fCrc := if b = 0x02 then 0x0002 else s.fr.fCrc
        fPrev := if b = 0x02 then 0x02 else s.fr.fPrev
        totalBytesSeen := decay n
        droppedBytes := decay d }
      responses := s.responses ++ [{ err := false, val := .none }] }

/-- R164, R165, R172: the address byte, the low length byte and the low checksum byte; only the first two enter
the running CRC. -/
def Obligations.FeedInAddressLengthLowChecksumLow : Prop :=
  ∀ (b : Byte) (s : State),
    ∃ t, exec (.frFeed b) s = .next t ∧
      (s.fr.fst = .address ∨ s.fr.fst = .lengthLow ∨ s.fr.fst = .checksumLow →
        t = { s with fr := t.fr, responses := s.responses ++ [{ err := false, val := .none }] }) ∧
      (s.fr.fst = .address → t.fr = { s.fr with
        fst := .lengthLow, fAddr := b
        fCrc := (crcStep s.fr.fCrc s.fr.fPrev b).1, fPrev := b
        totalBytesSeen := t.fr.totalBytesSeen, droppedBytes := t.fr.droppedBytes }) ∧
      (s.fr.fst = .lengthLow → t.fr = { s.fr with
        fst := .lengthHigh, fLenLo := b
        fCrc := (crcStep s.fr.fCrc s.fr.fPrev b).1, fPrev := b
        totalBytesSeen := t.fr.totalBytesSeen, droppedBytes := t.fr.droppedBytes }) ∧
      (s.fr.fst = .checksumLow → t.fr = { s.fr with
        fst := .checksumHigh, fCkLo := b
        totalBytesSeen := t.fr.totalBytesSeen, droppedBytes := t.fr.droppedBytes })

/-- R166 to R169: the length is completed, and is oversized, zero or the start of a body. -/
def Obligations.FeedInLengthHigh : Prop :=
  ∀ (b : Byte) (s : State), s.fr.fst = .lengthHigh →
    let l := 256 * b.toNat + s.fr.fLenLo.toNat
    let g := { s.fr with fCrc := (crcStep s.fr.fCrc s.fr.fPrev b).1, fPrev := b }
    ∃ t, exec (.frFeed b) s = .next t ∧
      t = { s with fr := t.fr, responses := s.responses ++ [{ err := false, val := .none }] } ∧
      (1024 ≤ l → t.fr = { g with
        fst := .awaitingStx
        badPacketCount := if s.fr.badPacketCount.toNat = 2 ^ 32 - 1 then s.fr.badPacketCount else s.fr.badPacketCount + 1
        acc := { s.fr.acc with head := 0, tail := 0, len := 0 }
        totalBytesSeen := t.fr.totalBytesSeen, droppedBytes := t.fr.droppedBytes }) ∧
      (l = 0 → t.fr = { g with
        fst := .checksumLow, fLen := 0x0000
        totalBytesSeen := t.fr.totalBytesSeen, droppedBytes := t.fr.droppedBytes }) ∧
      (1 ≤ l → l < 1024 → t.fr = { g with
        fst := .body, fLen := BitVec.ofNat 16 l, fRem := BitVec.ofNat 16 l
        totalBytesSeen := t.fr.totalBytesSeen, droppedBytes := t.fr.droppedBytes })

/-- R171, with the write of R124 on ACC: the registers, and every slot of ACC. -/
def Obligations.FeedInBody : Prop :=
  ∀ (b : Byte) (s : State), s.fr.fst = .body → Memory.wf s.fr.acc.mem = true →
    ∃ (t : State) (m : Memory), exec (.frFeed b) s = .next t ∧
      t = { s with fr := t.fr, responses := s.responses ++ [{ err := false, val := .none }] } ∧
      t.fr = { s.fr with
        acc := { head := if s.fr.acc.len.toNat = 1024 then BitVec.ofNat 16 ((s.fr.acc.head.toNat + 1) % 1024)
                         else s.fr.acc.head
                 tail := BitVec.ofNat 16 ((s.fr.acc.tail.toNat + 1) % 1024)
                 len := if s.fr.acc.len.toNat = 1024 then s.fr.acc.len else s.fr.acc.len + 1
                 mem := m }
        fCrc := (crcStep s.fr.fCrc s.fr.fPrev b).1, fPrev := b
        fRem := s.fr.fRem - 1
        fst := if s.fr.fRem - 1 = 0 then .checksumLow else .body
        totalBytesSeen := t.fr.totalBytesSeen, droppedBytes := t.fr.droppedBytes } ∧
      Memory.read m s.fr.acc.tail.toNat = b ∧
      ∀ a, a ≠ s.fr.acc.tail.toNat → Memory.read m a = Memory.read s.fr.acc.mem a

/-- R173 to R176, R181: the packet is judged; valid, it is enqueued and the streak ends; not valid, it is counted;
either way ACC is cleared and the framer waits for the next frame. -/
def Obligations.FeedInChecksumHigh : Prop :=
  ∀ (b : Byte) (s : State), s.fr.fst = .checksumHigh →
    let ck : U16 := BitVec.ofNat 16 (256 * b.toNat + s.fr.fCkLo.toNat)
    let p : Packet := { address := s.fr.fAddr, length := s.fr.fLen, body := s.fr.acc.contents 1024, checksum := ck }
    let sat := fun (v : U32) => if v.toNat = 2 ^ 32 - 1 then v else v + 1
    let g := { s.fr with fst := .awaitingStx, acc := { s.fr.acc with head := 0, tail := 0, len := 0 } }
    let full := s.fr.pq.length = s.params.pqDepth
    ∃ t, exec (.frFeed b) s = .next t ∧
      t = { s with fr := t.fr, responses := s.responses ++ [{ err := false, val := .none }] } ∧
      (s.fr.fCrc = ck → t.fr = { g with
        badPacketStreak := 0
        pq := if full then s.fr.pq.drop 1 ++ [p] else s.fr.pq ++ [p]
        pqOverflow := if full then sat s.fr.pqOverflow else s.fr.pqOverflow
        totalBytesSeen := t.fr.totalBytesSeen, droppedBytes := t.fr.droppedBytes }) ∧
      (s.fr.fCrc ≠ ck → t.fr = { g with
        badPacketStreak := sat s.fr.badPacketStreak
        badPacketCount := sat s.fr.badPacketCount
        totalBytesSeen := t.fr.totalBytesSeen, droppedBytes := t.fr.droppedBytes })

/-! ### The framer's other operations -/

/-- R186. -/
def Obligations.FrRstClearsTheFramer : Prop :=
  encode .frRst = { word := 0x2000, payload := [] } ∧
  ∀ s : State, exec .frRst s = .next { s with
    fr := { fst := .awaitingStx, fAddr := 0x00, fLenLo := 0x00, fLen := 0x0000, fRem := 0x0000, fCkLo := 0x00
            fCrc := 0x0000, fPrev := 0x00, acc := { head := 0, tail := 0, len := 0, mem := s.fr.acc.mem }
            totalBytesSeen := 0, droppedBytes := 0, badPacketStreak := 0, badPacketCount := 0, pqOverflow := 0
            pq := [] }
    responses := s.responses ++ [{ err := false, val := .none }] }

/-- R182, R206: FR_HAS returns the level of `pkt_avail`, which is whether a packet waits. -/
def Obligations.FrHasReturnsPacketAvailable : Prop :=
  encode .frHas = { word := 0x2200, payload := [] } ∧
  ∀ s : State,
    exec .frHas s = .next { s with responses := s.responses ++ [{ err := false, val := .bool s.pktAvail }] } ∧
    (s.pktAvail = true ↔ 0 < s.fr.pq.length)

/-- R183. -/
def Obligations.FrPopTakesTheOldestPacket : Prop :=
  encode .frPop = { word := 0x2300, payload := [] } ∧
  ∀ s : State,
    (s.fr.pq = [] → exec .frPop s =
      .next { s with responses := s.responses ++ [{ err := false, val := .pkt none }] }) ∧
    ∀ p rest, s.fr.pq = p :: rest → exec .frPop s =
      .next { s with fr := { s.fr with pq := rest }
                     responses := s.responses ++ [{ err := false, val := .pkt (some p) }] }

/-- R185, R184, R32: the value each selector returns, and the error response of a reserved one. -/
def Obligations.FrStatReturnsTheSelectedStatistic : Prop :=
  (∀ sel, encode (.frStat sel) = { word := 0x24#8 ++ sel, payload := [] }) ∧
  ∀ (sel : Byte) (s : State),
    let answer := fun (v : U32) =>
      exec (.frStat sel) s = .next { s with responses := s.responses ++ [{ err := false, val := .u32 v }] }
    (sel = 0x00 → answer s.fr.totalBytesSeen) ∧
    (sel = 0x01 → answer s.fr.droppedBytes) ∧
    (sel = 0x02 → answer s.fr.badPacketStreak) ∧
    (sel = 0x03 → answer s.fr.badPacketCount) ∧
    (sel = 0x04 → answer (if s.fr.totalBytesSeen = 0 then 0
      else BitVec.ofNat 32 (100 * s.fr.droppedBytes.toNat / s.fr.totalBytesSeen.toNat))) ∧
    (sel = 0x05 → answer (BitVec.ofNat 32 s.fr.pq.length)) ∧
    (sel = 0x06 → answer s.fr.pqOverflow) ∧
    (7 ≤ sel.toNat → exec (.frStat sel) s =
      .next { s with responses := s.responses ++ [{ err := true, val := .none }] })

/-- R184, R187: in every state that meets the framer invariant the ratio is at most 100, and exact. -/
def Obligations.NoiseRatioIsAPercentage : Prop :=
  ∀ (depth : Nat) (f : Framer), f.Inv depth →
    f.noiseRatio.toNat ≤ 100 ∧
    f.noiseRatio.toNat = 100 * f.droppedBytes.toNat / f.totalBytesSeen.toNat

/-! ### Invariants -/

/-- R120, R187, R10: every step keeps the structural invariant. -/
def Obligations.StepKeepsTheInvariant : Prop :=
  ∀ s t : State, s.Inv → step s = .next t → t.Inv

/-- R189: every step keeps the running CRC equal to the fold over the frame so far. -/
def Obligations.StepKeepsTheRunningCrc : Prop :=
  ∀ s t : State, s.Inv → s.fr.RunningCrc → step s = .next t → t.fr.RunningCrc

/-- R188, R143, R147: every packet in the queue is valid, with the length of its body, at most 1023. -/
def Obligations.StepKeepsQueuedPacketsGood : Prop :=
  ∀ s t : State, s.Inv → s.fr.RunningCrc → s.QueueGood → step s = .next t → t.QueueGood

/-- The state after reset meets all three invariants, for every value of the parameters in range. -/
def Obligations.ResetMeetsTheInvariants : Prop :=
  (∀ p : Config.Params, p.Ok →
    (State.resetWith p).Inv ∧ (State.resetWith p).fr.RunningCrc ∧ (State.resetWith p).QueueGood) ∧
  State.reset = State.resetWith Config.Params.reference ∧ Config.Params.reference.Ok

/-- R11, R170: in a state that meets the invariant, a body byte is appended to ACC and drops nothing. -/
def Obligations.AccNeverOverflows : Prop :=
  ∀ (b : Byte) (s : State), s.Inv → s.fr.fst = .body →
    s.fr.acc.len.toNat < 1024 ∧
    ∃ t, exec (.frFeed b) s = .next t ∧
      t.fr.acc.contents 1024 = s.fr.acc.contents 1024 ++ [b] ∧ t.fr.acc.len.toNat ≤ 1023

/-! ### Whole-machine rules -/

/-- R192, R174, R175, R186: the bad-packet streak after the reset event and after any operation. -/
def Obligations.StreakChangesOnlyWhenAFrameIsJudged : Prop :=
  (∀ (s t : State) (es : List PortEvent), s.pending = .reset :: es → step s = .next t → t.fr.badPacketStreak = 0) ∧
  ∀ (i : Instr) (s t : State), exec i s = .next t →
    t.fr.badPacketStreak =
      match i with
      | .frRst => 0
      | .frFeed b =>
        if s.fr.fst = .checksumHigh then
          if s.fr.fCrc = BitVec.ofNat 16 (256 * b.toNat + s.fr.fCkLo.toNat) then 0
          else if s.fr.badPacketStreak.toNat = 2 ^ 32 - 1 then s.fr.badPacketStreak
          else s.fr.badPacketStreak + 1
        else s.fr.badPacketStreak
      | _ => s.fr.badPacketStreak

/-- R206: `pkt_avail` rises exactly when a valid packet is enqueued into an empty queue, and falls exactly when
FR_POP takes the last packet, on FR_RST and on reset. -/
def Obligations.PacketAvailableRisesAndFalls : Prop :=
  (∀ (s t : State) (es : List PortEvent), s.pending = .reset :: es → step s = .next t → t.pktAvail = false) ∧
  ∀ (i : Instr) (s t : State), exec i s = .next t →
    (s.pktAvail = false → (t.pktAvail = true ↔
      ∃ b, i = .frFeed b ∧ s.fr.fst = .checksumHigh ∧ s.fr.fCrc = BitVec.ofNat 16 (256 * b.toNat + s.fr.fCkLo.toNat))) ∧
    (s.pktAvail = true → (t.pktAvail = false ↔ i = .frRst ∨ (i = .frPop ∧ s.fr.pq.length = 1)))

/-- R201 to R204, R207: the events of one FR_FEED, what each records, and which can come together. FramingNoise is
recorded in droppedBytes before the decay of R177. That events are a function of an operation and the state before
it, kept nowhere, is the model's form of R201 (log 19). -/
def Obligations.FeedEventsAreRecorded : Prop :=
  ∀ (b : Byte) (s t : State), exec (.frFeed b) s = .next t →
    let ev := opEvents (encode (.frFeed b)) s
    let sat := fun (v : U32) => if v.toNat = 2 ^ 32 - 1 then v else v + 1
    let noise := if Event.framingNoise ∈ ev then s.fr.droppedBytes + 1 else s.fr.droppedBytes
    (Event.framingNoise ∈ ev ↔ s.fr.fst = .awaitingStx ∧ b ≠ 0x02) ∧
    (Event.checksumMismatch ∈ ev ↔
      s.fr.fst = .checksumHigh ∧ s.fr.fCrc ≠ BitVec.ofNat 16 (256 * b.toNat + s.fr.fCkLo.toNat)) ∧
    (Event.oversizedLength ∈ ev ↔ s.fr.fst = .lengthHigh ∧ 1024 ≤ 256 * b.toNat + s.fr.fLenLo.toNat) ∧
    (Event.queueOverflow ∈ ev ↔ s.fr.fst = .checksumHigh ∧ s.fr.pq.length = s.params.pqDepth ∧
      s.fr.fCrc = BitVec.ofNat 16 (256 * b.toNat + s.fr.fCkLo.toNat)) ∧
    t.fr.droppedBytes =
      (if 0x10000 < (s.fr.totalBytesSeen + 1).toNat then BitVec.ofNat 32 (noise.toNat * 4 / 5) else noise) ∧
    t.fr.badPacketStreak =
      (if Event.checksumMismatch ∈ ev then sat s.fr.badPacketStreak
       else if s.fr.fst = .checksumHigh then 0 else s.fr.badPacketStreak) ∧
    t.fr.badPacketCount =
      (if Event.checksumMismatch ∈ ev ∨ Event.oversizedLength ∈ ev then sat s.fr.badPacketCount
       else s.fr.badPacketCount) ∧
    t.fr.pqOverflow = (if Event.queueOverflow ∈ ev then sat s.fr.pqOverflow else s.fr.pqOverflow) ∧
    ev.length ≤ 1 ∧ Event.reservedOperation ∉ ev ∧ Event.ringOverwrite ∉ ev

/-- R197: an operation writes only the state of its unit. -/
def Obligations.OperationsWriteOnlyTheirUnit : Prop :=
  ∀ (i : Instr) (s : State), ∃ t, exec i s = .next t ∧
    t.params = s.params ∧ t.pending = s.pending ∧
    (unitOf i ≠ .crcu ∨ i = .crcRd → t.crcu = s.crcu) ∧
    (unitOf i ≠ .rbx ∨ i = .rbLen → t.rbx = s.rbx) ∧
    (unitOf i ≠ .fr ∨ i = .frHas ∨ (∃ sel, i = .frStat sel) → t.fr = s.fr) ∧
    (i = .frPop → t.fr = { s.fr with pq := t.fr.pq })

/-- R197: an operation reads only the state its row lists: two states that agree there give the same response and
the same new values of what the operation writes. -/
def Obligations.OperationsReadOnlyTheirRow : Prop :=
  ∀ (i : Instr) (s u : State), s.params = u.params →
    (match i with
      | .nop | .crcClr | .rbClr | .frRst | .enc _ _ => True
      | .crcUpd _ => s.crcu = u.crcu
      | .crcRd => s.crcu.crc = u.crcu.crc
      | .rbWr _ | .rbRd => s.rbx = u.rbx
      | .rbLen => s.rbx.len = u.rbx.len
      | .frFeed _ => s.fr = u.fr
      | .frHas | .frPop => s.fr.pq = u.fr.pq
      | .frStat _ =>
        s.fr.totalBytesSeen = u.fr.totalBytesSeen ∧ s.fr.droppedBytes = u.fr.droppedBytes ∧
        s.fr.badPacketStreak = u.fr.badPacketStreak ∧ s.fr.badPacketCount = u.fr.badPacketCount ∧
        s.fr.pqOverflow = u.fr.pqOverflow ∧ s.fr.pq = u.fr.pq) →
    ∃ (s' u' : State) (r : Response),
      exec i s = .next s' ∧ exec i u = .next u' ∧
      s'.responses = s.responses ++ [r] ∧ u'.responses = u.responses ++ [r] ∧
      (match i with
        | .crcClr | .crcUpd _ => s'.crcu = u'.crcu
        | .rbClr => s'.rbx = { u'.rbx with mem := s.rbx.mem }
        | .rbWr _ | .rbRd => s'.rbx = u'.rbx
        | .frRst => s'.fr = { u'.fr with acc := { u'.fr.acc with mem := s.fr.acc.mem } }
        | .frFeed _ => s'.fr = u'.fr
        | .frPop => s'.fr.pq = u'.fr.pq
        | _ => True)

/-- R197: operations of different units commute, and their responses come back in issue order. -/
def Obligations.OperationsOfDifferentUnitsCommute : Prop :=
  ∀ (i j : Instr) (s : State), unitOf i ≠ unitOf j →
    ∃ (a b : State) (r q : Response),
      execAll [i, j] s = .next a ∧ execAll [j, i] s = .next b ∧
      a.crcu = b.crcu ∧ a.rbx = b.rbx ∧ a.fr = b.fr ∧
      a.responses = s.responses ++ [r, q] ∧ b.responses = s.responses ++ [q, r]

/-- R222: CRC_CLR, RB_CLR and FR_RST together leave every observable piece of state as the block reset does. -/
def Obligations.PartialResetsMakeTheBlockReset : Prop :=
  ∀ s : State, ∃ t u, execAll [.crcClr, .rbClr, .frRst] s = .next t ∧
    step { s with pending := [.reset] } = .next u ∧
    { t.observe with responses := [] } = { u.observe with responses := [] }

/-! ### Framing -/

/-- R160: feeding a stream in any split is feeding it byte by byte. -/
def Obligations.FeedingIsChunkingInvariant : Prop :=
  ∀ (chunks : List (List Byte)) (s : State),
    ∃ t, execAll (frAdd chunks.flatten) s = .next t ∧
      t = { s with
        fr := chunks.foldl (fun f chunk => f.feedAll s.params.pqDepth chunk) s.fr
        responses := s.responses ++ List.replicate chunks.flatten.length { err := false, val := .none } }

/-- R163, R178: bytes other than `0x02` fed in `AwaitingStx` are all noise: counted, and nothing else. -/
def Obligations.NoiseIsCountedAndDropped : Prop :=
  ∀ (l : List Byte) (s : State), s.fr.fst = .awaitingStx → (∀ b ∈ l, b ≠ 0x02) →
    s.fr.totalBytesSeen.toNat + l.length ≤ 0x10000 →
    ∃ t, execAll (frAdd l) s = .next t ∧
      t.fr = { s.fr with
        totalBytesSeen := s.fr.totalBytesSeen + BitVec.ofNat 32 l.length
        droppedBytes := s.fr.droppedBytes + BitVec.ofNat 32 l.length }

/-- R167, R178: a frame with an oversized length is abandoned at its fourth byte: no packet, one more bad packet,
the streak unchanged. -/
def Obligations.OversizedLengthIsAbandoned : Prop :=
  ∀ (a lo hi : Byte) (s : State), s.Inv → s.fr.fst = .awaitingStx → 1024 ≤ 256 * hi.toNat + lo.toNat →
    ∃ t, execAll (frAdd [0x02, a, lo, hi]) s = .next t ∧
      t.Inv ∧ t.fr.fst = .awaitingStx ∧ t.fr.pq = s.fr.pq ∧ t.fr.pqOverflow = s.fr.pqOverflow ∧
      t.fr.badPacketStreak = s.fr.badPacketStreak ∧
      t.fr.badPacketCount =
        (if s.fr.badPacketCount.toNat = 2 ^ 32 - 1 then s.fr.badPacketCount else s.fr.badPacketCount + 1)

/-- R190: the bytes ENC returns, fed from `AwaitingStx`, enqueue exactly the packet encoded, end the streak and
leave the framer in `AwaitingStx`. -/
def Obligations.EncodedFrameIsReceived : Prop :=
  ∀ (a : Byte) (body : List Byte) (s : State), s.Inv → s.fr.fst = .awaitingStx → body.length ≤ 1023 →
    ∃ (f : List Byte) (u t : State),
      exec (.enc a body) s = .next u ∧ u.responses = s.responses ++ [{ err := false, val := .frame f }] ∧
      execAll (frAdd f) s = .next t ∧
      t.Inv ∧ t.fr.fst = .awaitingStx ∧ t.fr.badPacketStreak = 0 ∧
      t.fr.badPacketCount = s.fr.badPacketCount ∧
      t.fr.pq = (if s.fr.pq.length = s.params.pqDepth then s.fr.pq.drop 1 else s.fr.pq) ++
        [{ address := a, length := BitVec.ofNat 16 body.length, body := body
           checksum := crc16 (f.take (f.length - 2)) }]

/-- R181, R190: any sequence of encoded frames fed back to back leaves the newest `PQ_DEPTH` packets in the queue,
in order. -/
def Obligations.FramesFedBackToBackArriveInOrder : Prop :=
  ∀ (frames : List (Byte × List Byte)) (s : State), s.Inv → s.fr.fst = .awaitingStx →
    (∀ x ∈ frames, x.2.length ≤ 1023) →
    let all := s.fr.pq ++ frames.map (fun x => Packet.ofBody x.1 x.2)
    ∃ t, execAll (frAdd (frames.map (fun x => (Packet.ofBody x.1 x.2).wire)).flatten) s = .next t ∧
      t.fr.fst = .awaitingStx ∧
      t.fr.pq = all.drop (all.length - s.params.pqDepth)

/-- R179: from any state that meets the invariant, the framer is back in `AwaitingStx` within one frame, that is
after at most 1028 more bytes, whatever they are. -/
def Obligations.FramerReturnsWithinOneFrame : Prop :=
  ∀ (l : List Byte) (s : State), s.Inv → l.length = 1028 →
    ∃ (k : Nat) (t : State), k ≤ 1028 ∧ execAll (frAdd (l.take k)) s = .next t ∧ t.fr.fst = .awaitingStx
end

