-- ==== Sys2Proof/Laws/Counters.lean ====
section
/-! SUPPORT. The saturating increment and the widening of a counter (00_scope.md R12, R14), and the bound of each
kind of statistics register as a numeral, for arithmetic. -/

namespace Sys2Proof.Machine

/-- The number of values of a register of `CNT_WIDTH` bits. -/
@[simp] theorem two_pow_cntWidth : 2 ^ Config.cntWidth = 4294967296 := rfl

/-- The number of values of a register of `STREAK_WIDTH` bits. -/
@[simp] theorem two_pow_streakWidth : 2 ^ Config.streakWidth = 4294967296 := rfl

/-- A register of `CNT_WIDTH` bits, its bound written out. -/
theorem Counter.toNat_lt (v : Counter) : v.toNat < 4294967296 := v.isLt

/-- A register of `STREAK_WIDTH` bits, its bound written out. -/
theorem StreakCounter.toNat_lt (v : StreakCounter) : v.toNat < 4294967296 := v.isLt

/-- A counter below its largest value counts one more without wrapping (R162, R163). -/
theorem Counter.toNat_add_one {v : Counter} (h : v.toNat < 4294967295) : (v + 1).toNat = v.toNat + 1 := by
  have h1 : (v + 1).toNat = (v.toNat + 1) % 4294967296 := BitVec.toNat_add v 1
  omega

/-- A counter stays at its largest value and otherwise grows by one. -/
theorem satInc_eq {w : Nat} (v : BitVec w) : satInc v = if v.toNat = 2 ^ w - 1 then v else v + 1 := by
  have := v.isLt
  apply BitVec.eq_of_toNat_eq
  simp only [satInc, BitVec.toNat_ofNat]
  split
  · next h => rw [Nat.min_eq_right (by omega), ← h, Nat.mod_eq_of_lt v.isLt]
  · next h => rw [Nat.min_eq_left (by omega), BitVec.toNat_add, show (1 : BitVec w).toNat = 1 % 2 ^ w from BitVec.toNat_ofNat 1 w, Nat.add_mod_mod]

/-- A saturating increment in numbers. -/
theorem satInc_toNat {w : Nat} (v : BitVec w) : (satInc v).toNat = min (v.toNat + 1) (2 ^ w - 1) := by
  have := v.isLt
  simp only [satInc, BitVec.toNat_ofNat]
  exact Nat.mod_eq_of_lt (by omega)

/-- A 32-bit value is carried by a `U32` response as it is. -/
@[simp] theorem zext32_u32 (v : U32) : zext32 v = v := BitVec.setWidth_eq v

end Sys2Proof.Machine
end

