-- ==== Sys2Proof/Laws/Crc.lean ====
section
/-! SUPPORT. The CRC fold over lists (40_checksum.md R101). -/

namespace Sys2Proof.Machine

@[simp] theorem crcFold_nil (cp : U16 × Byte) : crcFold cp [] = cp := rfl

theorem crcFold_cons (cp : U16 × Byte) (b : Byte) (l : List Byte) :
    crcFold cp (b :: l) = crcFold (crcStep cp.1 cp.2 b) l := rfl

theorem crcFold_append (cp : U16 × Byte) (l m : List Byte) :
    crcFold cp (l ++ m) = crcFold (crcFold cp l) m := List.foldl_append ..

/-- One more byte at the end is one more step. -/
theorem crcFold_concat (cp : U16 × Byte) (l : List Byte) (b : Byte) :
    crcFold cp (l ++ [b]) = crcStep (crcFold cp l).1 (crcFold cp l).2 b := crcFold_append ..

/-- The new previous byte is the byte folded in (R100). -/
@[simp] theorem crcStep_snd (c : U16) (p b : Byte) : (crcStep c p b).2 = b := rfl

/-- The previous byte after a fold is the last byte, or the one before the fold. -/
theorem crcFold_snd (cp : U16 × Byte) (l : List Byte) : (crcFold cp l).2 = l.getLastD cp.2 := by
  induction l generalizing cp with
  | nil => rfl
  | cons b l ih => rw [crcFold_cons, ih, List.getLastD_cons]; rfl

end Sys2Proof.Machine
end

