-- ==== Sys2Proof/Laws/Framer.lean ====
section
/-! SUPPORT. What the framer's shared updates do to each of its fields: the byte count, the running CRC, the end
of a frame, the enqueue and the decay. -/

namespace Sys2Proof.Machine

variable (f : Framer)

@[simp] theorem Framer.count_fst : f.count.fst = f.fst := rfl
@[simp] theorem Framer.count_fAddr : f.count.fAddr = f.fAddr := rfl
@[simp] theorem Framer.count_fLenLo : f.count.fLenLo = f.fLenLo := rfl
@[simp] theorem Framer.count_fLen : f.count.fLen = f.fLen := rfl
@[simp] theorem Framer.count_fRem : f.count.fRem = f.fRem := rfl
@[simp] theorem Framer.count_fCkLo : f.count.fCkLo = f.fCkLo := rfl
@[simp] theorem Framer.count_fCrc : f.count.fCrc = f.fCrc := rfl
@[simp] theorem Framer.count_fPrev : f.count.fPrev = f.fPrev := rfl
@[simp] theorem Framer.count_acc : f.count.acc = f.acc := rfl
@[simp] theorem Framer.count_totalBytesSeen : f.count.totalBytesSeen = f.totalBytesSeen + 1 := rfl
@[simp] theorem Framer.count_droppedBytes : f.count.droppedBytes = f.droppedBytes := rfl
@[simp] theorem Framer.count_badPacketStreak : f.count.badPacketStreak = f.badPacketStreak := rfl
@[simp] theorem Framer.count_badPacketCount : f.count.badPacketCount = f.badPacketCount := rfl
@[simp] theorem Framer.count_pqOverflow : f.count.pqOverflow = f.pqOverflow := rfl
@[simp] theorem Framer.count_pq : f.count.pq = f.pq := rfl

@[simp] theorem Framer.foldCrc_fst (b : Byte) : (f.foldCrc b).fst = f.fst := rfl
@[simp] theorem Framer.foldCrc_fAddr (b : Byte) : (f.foldCrc b).fAddr = f.fAddr := rfl
@[simp] theorem Framer.foldCrc_fLenLo (b : Byte) : (f.foldCrc b).fLenLo = f.fLenLo := rfl
@[simp] theorem Framer.foldCrc_fLen (b : Byte) : (f.foldCrc b).fLen = f.fLen := rfl
@[simp] theorem Framer.foldCrc_fRem (b : Byte) : (f.foldCrc b).fRem = f.fRem := rfl
@[simp] theorem Framer.foldCrc_fCkLo (b : Byte) : (f.foldCrc b).fCkLo = f.fCkLo := rfl
@[simp] theorem Framer.foldCrc_fCrc (b : Byte) : (f.foldCrc b).fCrc = (crcStep f.fCrc f.fPrev b).1 := rfl
@[simp] theorem Framer.foldCrc_fPrev (b : Byte) : (f.foldCrc b).fPrev = b := rfl
@[simp] theorem Framer.foldCrc_acc (b : Byte) : (f.foldCrc b).acc = f.acc := rfl
@[simp] theorem Framer.foldCrc_totalBytesSeen (b : Byte) : (f.foldCrc b).totalBytesSeen = f.totalBytesSeen := rfl
@[simp] theorem Framer.foldCrc_droppedBytes (b : Byte) : (f.foldCrc b).droppedBytes = f.droppedBytes := rfl
@[simp] theorem Framer.foldCrc_badPacketStreak (b : Byte) : (f.foldCrc b).badPacketStreak = f.badPacketStreak := rfl
@[simp] theorem Framer.foldCrc_badPacketCount (b : Byte) : (f.foldCrc b).badPacketCount = f.badPacketCount := rfl
@[simp] theorem Framer.foldCrc_pqOverflow (b : Byte) : (f.foldCrc b).pqOverflow = f.pqOverflow := rfl
@[simp] theorem Framer.foldCrc_pq (b : Byte) : (f.foldCrc b).pq = f.pq := rfl

@[simp] theorem Framer.endFrame_fst : f.endFrame.fst = .awaitingStx := rfl
@[simp] theorem Framer.endFrame_fAddr : f.endFrame.fAddr = f.fAddr := rfl
@[simp] theorem Framer.endFrame_fLenLo : f.endFrame.fLenLo = f.fLenLo := rfl
@[simp] theorem Framer.endFrame_fLen : f.endFrame.fLen = f.fLen := rfl
@[simp] theorem Framer.endFrame_fRem : f.endFrame.fRem = f.fRem := rfl
@[simp] theorem Framer.endFrame_fCkLo : f.endFrame.fCkLo = f.fCkLo := rfl
@[simp] theorem Framer.endFrame_fCrc : f.endFrame.fCrc = f.fCrc := rfl
@[simp] theorem Framer.endFrame_fPrev : f.endFrame.fPrev = f.fPrev := rfl
@[simp] theorem Framer.endFrame_acc : f.endFrame.acc = f.acc.clear := rfl
@[simp] theorem Framer.endFrame_totalBytesSeen : f.endFrame.totalBytesSeen = f.totalBytesSeen := rfl
@[simp] theorem Framer.endFrame_droppedBytes : f.endFrame.droppedBytes = f.droppedBytes := rfl
@[simp] theorem Framer.endFrame_badPacketStreak : f.endFrame.badPacketStreak = f.badPacketStreak := rfl
@[simp] theorem Framer.endFrame_badPacketCount : f.endFrame.badPacketCount = f.badPacketCount := rfl
@[simp] theorem Framer.endFrame_pqOverflow : f.endFrame.pqOverflow = f.pqOverflow := rfl
@[simp] theorem Framer.endFrame_pq : f.endFrame.pq = f.pq := rfl

@[simp] theorem Framer.decay_fst : f.decay.fst = f.fst := by unfold Framer.decay; split <;> rfl
@[simp] theorem Framer.decay_fAddr : f.decay.fAddr = f.fAddr := by unfold Framer.decay; split <;> rfl
@[simp] theorem Framer.decay_fLenLo : f.decay.fLenLo = f.fLenLo := by unfold Framer.decay; split <;> rfl
@[simp] theorem Framer.decay_fLen : f.decay.fLen = f.fLen := by unfold Framer.decay; split <;> rfl
@[simp] theorem Framer.decay_fRem : f.decay.fRem = f.fRem := by unfold Framer.decay; split <;> rfl
@[simp] theorem Framer.decay_fCkLo : f.decay.fCkLo = f.fCkLo := by unfold Framer.decay; split <;> rfl
@[simp] theorem Framer.decay_fCrc : f.decay.fCrc = f.fCrc := by unfold Framer.decay; split <;> rfl
@[simp] theorem Framer.decay_fPrev : f.decay.fPrev = f.fPrev := by unfold Framer.decay; split <;> rfl
@[simp] theorem Framer.decay_acc : f.decay.acc = f.acc := by unfold Framer.decay; split <;> rfl
@[simp] theorem Framer.decay_badPacketStreak : f.decay.badPacketStreak = f.badPacketStreak := by unfold Framer.decay; split <;> rfl
@[simp] theorem Framer.decay_badPacketCount : f.decay.badPacketCount = f.badPacketCount := by unfold Framer.decay; split <;> rfl
@[simp] theorem Framer.decay_pqOverflow : f.decay.pqOverflow = f.pqOverflow := by unfold Framer.decay; split <;> rfl
@[simp] theorem Framer.decay_pq : f.decay.pq = f.pq := by unfold Framer.decay; split <;> rfl

@[simp] theorem Framer.enqueue_fst (d : Nat) (p : Packet) : (f.enqueue d p).fst = f.fst := by
  unfold Framer.enqueue; split <;> rfl
@[simp] theorem Framer.enqueue_fAddr (d : Nat) (p : Packet) : (f.enqueue d p).fAddr = f.fAddr := by
  unfold Framer.enqueue; split <;> rfl
@[simp] theorem Framer.enqueue_fLenLo (d : Nat) (p : Packet) : (f.enqueue d p).fLenLo = f.fLenLo := by
  unfold Framer.enqueue; split <;> rfl
@[simp] theorem Framer.enqueue_fLen (d : Nat) (p : Packet) : (f.enqueue d p).fLen = f.fLen := by
  unfold Framer.enqueue; split <;> rfl
@[simp] theorem Framer.enqueue_fRem (d : Nat) (p : Packet) : (f.enqueue d p).fRem = f.fRem := by
  unfold Framer.enqueue; split <;> rfl
@[simp] theorem Framer.enqueue_fCkLo (d : Nat) (p : Packet) : (f.enqueue d p).fCkLo = f.fCkLo := by
  unfold Framer.enqueue; split <;> rfl
@[simp] theorem Framer.enqueue_fCrc (d : Nat) (p : Packet) : (f.enqueue d p).fCrc = f.fCrc := by
  unfold Framer.enqueue; split <;> rfl
@[simp] theorem Framer.enqueue_fPrev (d : Nat) (p : Packet) : (f.enqueue d p).fPrev = f.fPrev := by
  unfold Framer.enqueue; split <;> rfl
@[simp] theorem Framer.enqueue_acc (d : Nat) (p : Packet) : (f.enqueue d p).acc = f.acc := by
  unfold Framer.enqueue; split <;> rfl
@[simp] theorem Framer.enqueue_totalBytesSeen (d : Nat) (p : Packet) : (f.enqueue d p).totalBytesSeen = f.totalBytesSeen := by
  unfold Framer.enqueue; split <;> rfl
@[simp] theorem Framer.enqueue_droppedBytes (d : Nat) (p : Packet) : (f.enqueue d p).droppedBytes = f.droppedBytes := by
  unfold Framer.enqueue; split <;> rfl
@[simp] theorem Framer.enqueue_badPacketStreak (d : Nat) (p : Packet) : (f.enqueue d p).badPacketStreak = f.badPacketStreak := by
  unfold Framer.enqueue; split <;> rfl
@[simp] theorem Framer.enqueue_badPacketCount (d : Nat) (p : Packet) : (f.enqueue d p).badPacketCount = f.badPacketCount := by
  unfold Framer.enqueue; split <;> rfl

/-- The decay of the byte count (R177). -/
theorem Framer.decay_totalBytesSeen :
    f.decay.totalBytesSeen =
      if f.totalBytesSeen.toNat > Config.decayLimit then decayed f.totalBytesSeen else f.totalBytesSeen := by
  unfold Framer.decay; split <;> rfl

/-- The decay of the noise count, decided by the byte count (R177). -/
theorem Framer.decay_droppedBytes :
    f.decay.droppedBytes =
      if f.totalBytesSeen.toNat > Config.decayLimit then decayed f.droppedBytes else f.droppedBytes := by
  unfold Framer.decay; split <;> rfl

/-- The queue after an enqueue (R181). -/
theorem Framer.enqueue_pq (d : Nat) (p : Packet) :
    (f.enqueue d p).pq = if f.pq.length = d then f.pq.drop 1 ++ [p] else f.pq ++ [p] := by
  unfold Framer.enqueue; split <;> rfl

/-- The overflow count after an enqueue (R181). -/
theorem Framer.enqueue_pqOverflow (d : Nat) (p : Packet) :
    (f.enqueue d p).pqOverflow = if f.pq.length = d then satInc f.pqOverflow else f.pqOverflow := by
  unfold Framer.enqueue; split <;> rfl

/-- `decayed` in numbers: the quotient fits in the width of the counter. -/
theorem decayed_toNat {w : Nat} (x : BitVec w) : (decayed x).toNat = x.toNat * 4 / 5 := by
  have := x.isLt
  simp only [decayed, Config.decayNum, Config.decayDen, BitVec.toNat_ofNat]
  exact Nat.mod_eq_of_lt (by omega)

/-! ### The rule of each state, branch by branch, so that no proof unfolds a state's function. -/

section
variable {f} {d : Nat} {b : Byte}

theorem Framer.onState_awaitingStx (h : f.fst = .awaitingStx) : f.onState d b = f.onAwaitingStx b := by
  simp [Framer.onState, h]

theorem Framer.onState_address (h : f.fst = .address) : f.onState d b = f.onAddress b := by
  simp [Framer.onState, h]

theorem Framer.onState_lengthLow (h : f.fst = .lengthLow) : f.onState d b = f.onLengthLow b := by
  simp [Framer.onState, h]

theorem Framer.onState_lengthHigh (h : f.fst = .lengthHigh) : f.onState d b = f.onLengthHigh b := by
  simp [Framer.onState, h]

theorem Framer.onState_body (h : f.fst = .body) : f.onState d b = f.onBody b := by
  simp [Framer.onState, h]

theorem Framer.onState_checksumLow (h : f.fst = .checksumLow) : f.onState d b = f.onChecksumLow b := by
  simp [Framer.onState, h]

theorem Framer.onState_checksumHigh (h : f.fst = .checksumHigh) : f.onState d b = f.onChecksumHigh d b := by
  simp [Framer.onState, h]

theorem Framer.onAwaitingStx_stx :
    f.onAwaitingStx Config.stx = { f with fCrc := 0x0002, fPrev := 0x02, fst := .address } := rfl

theorem Framer.onAwaitingStx_noise (h : b ≠ Config.stx) :
    f.onAwaitingStx b = { f with droppedBytes := f.droppedBytes + 1 } := if_neg h

theorem Framer.onLengthHigh_oversized (h : Config.maxLen ≤ (joinBytes b f.fLenLo).toNat) :
    f.onLengthHigh b = (f.foldCrc b).oversized := if_pos h

theorem Framer.onLengthHigh_zero (h : joinBytes b f.fLenLo = 0) :
    f.onLengthHigh b = (f.foldCrc b).zeroLength := by
  unfold Framer.onLengthHigh
  rw [if_neg (by rw [h]; decide), if_pos h]

theorem Framer.onLengthHigh_body (h : (joinBytes b f.fLenLo).toNat < Config.maxLen)
    (h0 : joinBytes b f.fLenLo ≠ 0) :
    f.onLengthHigh b = (f.foldCrc b).startBody (joinBytes b f.fLenLo) := by
  unfold Framer.onLengthHigh
  rw [if_neg (Nat.not_le.mpr h), if_neg h0]

theorem Framer.onChecksumHigh_valid (h : f.fCrc = joinBytes b f.fCkLo) :
    f.onChecksumHigh d b = (f.validPacket d (joinBytes b f.fCkLo)).endFrame := if_pos h

theorem Framer.onChecksumHigh_failure (h : f.fCrc ≠ joinBytes b f.fCkLo) :
    f.onChecksumHigh d b = f.checksumFailure.endFrame := if_neg h

/-- Everything the case of R161 can do: a property of the framer after the state's rule holds when it holds after
each rule, under that rule's own condition. -/
theorem Framer.onState_elim {P : Framer → Prop}
    (hstx : f.fst = .awaitingStx → b = Config.stx → P { f with fCrc := 0x0002, fPrev := 0x02, fst := .address })
    (hnoise : f.fst = .awaitingStx → b ≠ Config.stx → P { f with droppedBytes := f.droppedBytes + 1 })
    (haddr : f.fst = .address → P (f.onAddress b))
    (hlow : f.fst = .lengthLow → P (f.onLengthLow b))
    (hover : f.fst = .lengthHigh → Config.maxLen ≤ (joinBytes b f.fLenLo).toNat → P (f.foldCrc b).oversized)
    (hzero : f.fst = .lengthHigh → joinBytes b f.fLenLo = 0 → P (f.foldCrc b).zeroLength)
    (hstart : f.fst = .lengthHigh → (joinBytes b f.fLenLo).toNat < Config.maxLen → joinBytes b f.fLenLo ≠ 0 →
      P ((f.foldCrc b).startBody (joinBytes b f.fLenLo)))
    (hbody : f.fst = .body → P (f.onBody b))
    (hcklow : f.fst = .checksumLow → P (f.onChecksumLow b))
    (hvalid : f.fst = .checksumHigh → f.fCrc = joinBytes b f.fCkLo →
      P (f.validPacket d (joinBytes b f.fCkLo)).endFrame)
    (hfail : f.fst = .checksumHigh → f.fCrc ≠ joinBytes b f.fCkLo → P f.checksumFailure.endFrame) :
    P (f.onState d b) := by
  cases h : f.fst with
  | awaitingStx =>
    rw [Framer.onState_awaitingStx h]
    by_cases hb : b = Config.stx
    · subst hb; exact hstx h rfl
    · rw [Framer.onAwaitingStx_noise hb]; exact hnoise h hb
  | address => rw [Framer.onState_address h]; exact haddr h
  | lengthLow => rw [Framer.onState_lengthLow h]; exact hlow h
  | lengthHigh =>
    rw [Framer.onState_lengthHigh h]
    by_cases h1 : Config.maxLen ≤ (joinBytes b f.fLenLo).toNat
    · rw [Framer.onLengthHigh_oversized h1]; exact hover h h1
    · by_cases h0 : joinBytes b f.fLenLo = 0
      · rw [Framer.onLengthHigh_zero h0]; exact hzero h h0
      · rw [Framer.onLengthHigh_body (Nat.not_le.mp h1) h0]; exact hstart h (Nat.not_le.mp h1) h0
  | body => rw [Framer.onState_body h]; exact hbody h
  | checksumLow => rw [Framer.onState_checksumLow h]; exact hcklow h
  | checksumHigh =>
    rw [Framer.onState_checksumHigh h]
    by_cases hc : f.fCrc = joinBytes b f.fCkLo
    · rw [Framer.onChecksumHigh_valid hc]; exact hvalid h hc
    · rw [Framer.onChecksumHigh_failure hc]; exact hfail h hc

end

end Sys2Proof.Machine
end

