-- ==== Sys2Proof/Laws/Memory.lean ====
section
/-! SUPPORT. The laws of ring storage: a read after a write, and the canonical form. -/

namespace Sys2Proof.Machine

@[simp] theorem Memory.read_nil (a : Nat) : Memory.read [] a = Config.unwrittenSlot := rfl

theorem Memory.wf_cons {k : Nat} {v : Byte} {m : Memory} :
    Memory.wf ((k, v) :: m) = true ↔
      v ≠ Config.unwrittenSlot ∧ (∀ c ∈ m, k < c.1) ∧ Memory.wf m = true := by
  simp [Memory.wf, and_assoc]

/-- A slot that no pair lists reads as the unwritten byte. -/
theorem Memory.read_of_not_listed {m : Memory} {a : Nat} (h : ∀ c ∈ m, c.1 ≠ a) :
    Memory.read m a = Config.unwrittenSlot := by
  induction m with
  | nil => rfl
  | cons c m ih =>
    have hc : ¬ a = c.1 := fun e => h c (by simp) e.symm
    simp [Memory.read, hc, ih (fun d hd => h d (by simp [hd]))]

/-- The pair put in front is read back; the pairs behind it are read as before. -/
theorem Memory.read_push {m : Memory} {a : Nat} (b : Byte) (h : ∀ c ∈ m, a < c.1) (x : Nat) :
    Memory.read (Memory.push a b m) x = if x = a then b else Memory.read m x := by
  unfold Memory.push
  split
  · next hb =>
    split
    · next hx => subst hx hb; exact Memory.read_of_not_listed (fun c hc => by have := h c hc; omega)
    · rfl
  · simp [Memory.read]

/-- A read after a write, of the slot written and of every other slot. -/
theorem Memory.read_write {m : Memory} (hm : Memory.wf m = true) (a : Nat) (b : Byte) (x : Nat) :
    Memory.read (Memory.write m a b) x = if x = a then b else Memory.read m x := by
  induction m with
  | nil => exact Memory.read_push b (by simp) x
  | cons c m ih =>
    obtain ⟨k, v⟩ := c
    obtain ⟨-, hk, hwf⟩ := Memory.wf_cons.mp hm
    simp only [Memory.write]
    split
    · next hak =>
      exact Memory.read_push b
        (fun c hc => by
          rcases List.mem_cons.mp hc with rfl | hc
          · exact hak
          · have := hk c hc; omega) x
    · split
      · next hak =>
        subst hak
        rw [Memory.read_push b hk]
        simp only [Memory.read]
        split <;> rfl
      · next hle hne =>
        simp only [Memory.read, ih hwf]
        split
        · next hx => subst hx; simp [Ne.symm hne]
        · rfl

theorem Memory.wf_push {m : Memory} {a : Nat} {b : Byte} (hm : Memory.wf m = true) (h : ∀ c ∈ m, a < c.1) :
    Memory.wf (Memory.push a b m) = true := by
  unfold Memory.push
  split
  · exact hm
  · next hb => exact Memory.wf_cons.mpr ⟨hb, h, hm⟩

theorem Memory.mem_push {m : Memory} {a : Nat} {b : Byte} {c : Host.Cell} (h : c ∈ Memory.push a b m) :
    c = (a, b) ∨ c ∈ m := by
  unfold Memory.push at h
  split at h
  · exact .inr h
  · exact List.mem_cons.mp h

/-- The pairs of a written memory: the one written, and pairs that were there. -/
theorem Memory.mem_write {m : Memory} {a : Nat} {b : Byte} {c : Host.Cell} (h : c ∈ Memory.write m a b) :
    c = (a, b) ∨ c ∈ m := by
  induction m with
  | nil => exact Memory.mem_push h
  | cons d m ih =>
    obtain ⟨k, v⟩ := d
    simp only [Memory.write] at h
    split at h
    · exact Memory.mem_push h
    · split at h
      · exact (Memory.mem_push h).imp id (List.mem_cons_of_mem _)
      · rcases List.mem_cons.mp h with rfl | h
        · exact .inr (by simp)
        · exact (ih h).imp id (List.mem_cons_of_mem _)

/-- A write keeps the canonical form. -/
theorem Memory.wf_write {m : Memory} (hm : Memory.wf m = true) (a : Nat) (b : Byte) :
    Memory.wf (Memory.write m a b) = true := by
  induction m with
  | nil => exact Memory.wf_push rfl (by simp)
  | cons c m ih =>
    obtain ⟨k, v⟩ := c
    obtain ⟨hv, hk, hwf⟩ := Memory.wf_cons.mp hm
    simp only [Memory.write]
    split
    · next hak =>
      exact Memory.wf_push hm (fun c hc => by
        rcases List.mem_cons.mp hc with rfl | hc
        · exact hak
        · have := hk c hc; omega)
    · split
      · next hak => subst hak; exact Memory.wf_push hwf hk
      · next hle hne =>
        refine Memory.wf_cons.mpr ⟨hv, fun c hc => ?_, ih hwf⟩
        rcases Memory.mem_write hc with rfl | hc
        · show k < a; omega
        · exact hk c hc

end Sys2Proof.Machine
end

