-- ==== Sys2Proof/Laws/PerInstr.lean ====
section
/-! SUPPORT. Statements about every operation as syntax, one lemma per constructor. -/

namespace Sys2Proof.Laws.Fields

/-- The transaction of an operation holds its operation code in bits 15 to 8 and its argument in bits 7 to 0
(30_encoding.md R71), and its payload beside the word (R73). -/
def Statement (i : Instr) : Prop :=
  (encode i).opc = i.opcode ∧ (encode i).arg = i.argument ∧ (encode i).payload = i.payload

/-- The two byte fields of a word are read back. -/
theorem fields_of_append (hi lo : BitVec 8) :
    (hi ++ lo).extractLsb' 8 8 = hi ∧ (hi ++ lo).extractLsb' 0 8 = lo := by
  constructor
  · ext k hk
    rw [BitVec.getElem_extractLsb', BitVec.getLsbD_append]
    simp [BitVec.getLsbD_eq_getElem hk]
  · ext k hk
    rw [BitVec.getElem_extractLsb', BitVec.getLsbD_append]
    simp [hk]

/-- The fields of any encoded operation. -/
theorem of_encode (i : Instr) : Statement i :=
  ⟨(fields_of_append _ _).1, (fields_of_append _ _).2, rfl⟩

theorem nop : Statement .nop := of_encode _
theorem crcClr : Statement .crcClr := of_encode _
theorem crcUpd (b : Byte) : Statement (.crcUpd b) := of_encode _
theorem crcRd : Statement .crcRd := of_encode _
theorem rbClr : Statement .rbClr := of_encode _
theorem rbWr (b : Byte) : Statement (.rbWr b) := of_encode _
theorem rbRd : Statement .rbRd := of_encode _
theorem rbLen : Statement .rbLen := of_encode _
theorem frRst : Statement .frRst := of_encode _
theorem frFeed (b : Byte) : Statement (.frFeed b) := of_encode _
theorem frHas : Statement .frHas := of_encode _
theorem frPop : Statement .frPop := of_encode _
theorem frStat (sel : Byte) : Statement (.frStat sel) := of_encode _
theorem enc (a : Byte) (body : List Byte) : Statement (.enc a body) := of_encode _

end Sys2Proof.Laws.Fields
end

