-- ==== Sys2Proof/Laws/Ring.lean ====
section
/-! SUPPORT. The ring primitives on numbers: the next slot, and the length of the contents. -/

namespace Sys2Proof.Machine

/-- The next slot, in numbers, for a capacity a 16-bit pointer can name. -/
theorem Ring.next_toNat {cap : Nat} (h1 : 1 ≤ cap) (h2 : cap ≤ 65536) (p : BitVec 16) :
    (Ring.next cap p).toNat = (p.toNat + 1) % cap := by
  have := Nat.mod_lt (p.toNat + 1) h1
  simp only [Ring.next, BitVec.toNat_ofNat]
  omega

@[simp] theorem Ring.contents_length (cap : Nat) (r : Ring) : (r.contents cap).length = r.len.toNat := by
  simp [Ring.contents]

/-- The stored byte at a position counted from the oldest. -/
theorem Ring.contents_getElem {cap : Nat} {r : Ring} {i : Nat} (h : i < (r.contents cap).length) :
    (r.contents cap)[i] = Memory.read r.mem ((r.head.toNat + i) % cap) := by
  simp [Ring.contents]

/-- An empty ring has no contents. -/
theorem Ring.contents_of_empty {cap : Nat} {r : Ring} (h : r.len = 0) : r.contents cap = [] := by
  simp [Ring.contents, h]

@[simp] theorem Ring.clear_head (r : Ring) : r.clear.head = 0 := rfl
@[simp] theorem Ring.clear_tail (r : Ring) : r.clear.tail = 0 := rfl
@[simp] theorem Ring.clear_len (r : Ring) : r.clear.len = 0 := rfl
@[simp] theorem Ring.clear_mem (r : Ring) : r.clear.mem = r.mem := rfl

@[simp] theorem Ring.write_mem (cap : Nat) (r : Ring) (b : Byte) :
    (r.write cap b).mem = Memory.write r.mem r.tail.toNat b := by
  unfold Ring.write; dsimp only; split <;> rfl

@[simp] theorem Ring.write_tail (cap : Nat) (r : Ring) (b : Byte) :
    (r.write cap b).tail = Ring.next cap r.tail := by
  unfold Ring.write; dsimp only; split <;> rfl

/-- Only a write to a full ring moves the head (R124). -/
theorem Ring.write_head (cap : Nat) (r : Ring) (b : Byte) :
    (r.write cap b).head = if r.len.toNat = cap then Ring.next cap r.head else r.head := by
  unfold Ring.write; dsimp only; split <;> rfl

/-- Only a write to a ring that is not full makes it longer (R124). -/
theorem Ring.write_len (cap : Nat) (r : Ring) (b : Byte) :
    (r.write cap b).len = if r.len.toNat = cap then r.len else r.len + 1 := by
  unfold Ring.write; dsimp only; split <;> rfl

end Sys2Proof.Machine
end

