-- ==== Sys2Proof/Laws/State.lean ====
section
/-! SUPPORT. The value of every field of State after every update of State, so that no later proof unfolds a
record update. -/

namespace Sys2Proof.Machine

variable (s : State)

@[simp] theorem State.withCrcu_params (c : Crcu) : (s.withCrcu c).params = s.params := rfl
@[simp] theorem State.withCrcu_crcu (c : Crcu) : (s.withCrcu c).crcu = c := rfl
@[simp] theorem State.withCrcu_rbx (c : Crcu) : (s.withCrcu c).rbx = s.rbx := rfl
@[simp] theorem State.withCrcu_fr (c : Crcu) : (s.withCrcu c).fr = s.fr := rfl
@[simp] theorem State.withCrcu_pending (c : Crcu) : (s.withCrcu c).pending = s.pending := rfl
@[simp] theorem State.withCrcu_responses (c : Crcu) : (s.withCrcu c).responses = s.responses := rfl

@[simp] theorem State.withRbx_params (r : Ring) : (s.withRbx r).params = s.params := rfl
@[simp] theorem State.withRbx_crcu (r : Ring) : (s.withRbx r).crcu = s.crcu := rfl
@[simp] theorem State.withRbx_rbx (r : Ring) : (s.withRbx r).rbx = r := rfl
@[simp] theorem State.withRbx_fr (r : Ring) : (s.withRbx r).fr = s.fr := rfl
@[simp] theorem State.withRbx_pending (r : Ring) : (s.withRbx r).pending = s.pending := rfl
@[simp] theorem State.withRbx_responses (r : Ring) : (s.withRbx r).responses = s.responses := rfl

@[simp] theorem State.withFr_params (f : Framer) : (s.withFr f).params = s.params := rfl
@[simp] theorem State.withFr_crcu (f : Framer) : (s.withFr f).crcu = s.crcu := rfl
@[simp] theorem State.withFr_rbx (f : Framer) : (s.withFr f).rbx = s.rbx := rfl
@[simp] theorem State.withFr_fr (f : Framer) : (s.withFr f).fr = f := rfl
@[simp] theorem State.withFr_pending (f : Framer) : (s.withFr f).pending = s.pending := rfl
@[simp] theorem State.withFr_responses (f : Framer) : (s.withFr f).responses = s.responses := rfl

@[simp] theorem State.withPending_params (es : List PortEvent) : (s.withPending es).params = s.params := rfl
@[simp] theorem State.withPending_crcu (es : List PortEvent) : (s.withPending es).crcu = s.crcu := rfl
@[simp] theorem State.withPending_rbx (es : List PortEvent) : (s.withPending es).rbx = s.rbx := rfl
@[simp] theorem State.withPending_fr (es : List PortEvent) : (s.withPending es).fr = s.fr := rfl
@[simp] theorem State.withPending_pending (es : List PortEvent) : (s.withPending es).pending = es := rfl
@[simp] theorem State.withPending_responses (es : List PortEvent) : (s.withPending es).responses = s.responses := rfl

@[simp] theorem State.addResponse_params (r : Response) : (s.addResponse r).params = s.params := rfl
@[simp] theorem State.addResponse_crcu (r : Response) : (s.addResponse r).crcu = s.crcu := rfl
@[simp] theorem State.addResponse_rbx (r : Response) : (s.addResponse r).rbx = s.rbx := rfl
@[simp] theorem State.addResponse_fr (r : Response) : (s.addResponse r).fr = s.fr := rfl
@[simp] theorem State.addResponse_pending (r : Response) : (s.addResponse r).pending = s.pending := rfl
@[simp] theorem State.addResponse_responses (r : Response) : (s.addResponse r).responses = s.responses ++ [r] := rfl

@[simp] theorem respond_params (v : RspVal) : (respond v s).params = s.params := rfl
@[simp] theorem respond_crcu (v : RspVal) : (respond v s).crcu = s.crcu := rfl
@[simp] theorem respond_rbx (v : RspVal) : (respond v s).rbx = s.rbx := rfl
@[simp] theorem respond_fr (v : RspVal) : (respond v s).fr = s.fr := rfl
@[simp] theorem respond_pending (v : RspVal) : (respond v s).pending = s.pending := rfl
@[simp] theorem respond_responses (v : RspVal) : (respond v s).responses = s.responses ++ [{ err := false, val := v }] := rfl

@[simp] theorem respondErr_params : (respondErr s).params = s.params := rfl
@[simp] theorem respondErr_crcu : (respondErr s).crcu = s.crcu := rfl
@[simp] theorem respondErr_rbx : (respondErr s).rbx = s.rbx := rfl
@[simp] theorem respondErr_fr : (respondErr s).fr = s.fr := rfl
@[simp] theorem respondErr_pending : (respondErr s).pending = s.pending := rfl
@[simp] theorem respondErr_responses : (respondErr s).responses = s.responses ++ [{ err := true, val := .none }] := rfl

@[simp] theorem blockReset_params : (blockReset s).params = s.params := rfl
@[simp] theorem blockReset_crcu : (blockReset s).crcu = Crcu.reset := rfl
@[simp] theorem blockReset_rbx : (blockReset s).rbx = Ring.reset := rfl
@[simp] theorem blockReset_fr : (blockReset s).fr = Framer.reset := rfl
@[simp] theorem blockReset_pending : (blockReset s).pending = s.pending := rfl
@[simp] theorem blockReset_responses : (blockReset s).responses = s.responses := rfl

@[simp] theorem idle_params : (idle s).params = s.params := rfl
@[simp] theorem idle_crcu : (idle s).crcu = s.crcu := rfl
@[simp] theorem idle_rbx : (idle s).rbx = s.rbx := rfl
@[simp] theorem idle_fr : (idle s).fr = s.fr := rfl
@[simp] theorem idle_pending : (idle s).pending = s.pending := rfl
@[simp] theorem idle_responses : (idle s).responses = s.responses := rfl

@[simp] theorem issueFirst_params (o : Op) : (issueFirst o s).params = s.params := rfl
@[simp] theorem issueFirst_crcu (o : Op) : (issueFirst o s).crcu = s.crcu := rfl
@[simp] theorem issueFirst_rbx (o : Op) : (issueFirst o s).rbx = s.rbx := rfl
@[simp] theorem issueFirst_fr (o : Op) : (issueFirst o s).fr = s.fr := rfl
@[simp] theorem issueFirst_pending (o : Op) : (issueFirst o s).pending = .op o :: s.pending := rfl
@[simp] theorem issueFirst_responses (o : Op) : (issueFirst o s).responses = s.responses := rfl

/-- Issuing a transaction first and taking it off the port again is no change. -/
@[simp] theorem issueFirst_withPending (o : Op) : (issueFirst o s).withPending s.pending = s := rfl

end Sys2Proof.Machine
end

