-- ==== Sys2Proof/Laws/Step.lean ====
section
/-! SUPPORT. What one step can do, said once. -/

namespace Sys2Proof.Machine

/-- Every next state of a step comes from one of these: nothing issued, the reset event, a reserved operation,
an operation of the table. -/
theorem step_cases {s t : State} (h : step s = .next t) :
    (s.pending = [] ∧ t = s) ∨
    (∃ es, s.pending = .reset :: es ∧ t = blockReset (s.withPending es)) ∨
    (∃ o es why, s.pending = .op o :: es ∧ decode o = .reserved why ∧ t = respondErr (s.withPending es)) ∨
    (∃ o es i, s.pending = .op o :: es ∧ decode o = .op i ∧ exec i (s.withPending es) = .next t) := by
  unfold step at h
  split at h
  · next hp => cases h; exact .inl ⟨hp, rfl⟩
  · next es hp => cases h; exact .inr (.inl ⟨es, hp, rfl⟩)
  · next o es hp =>
    unfold execute at h
    split at h
    · next i hd => exact .inr (.inr (.inr ⟨o, es, i, hp, hd, h⟩))
    · next why hd => cases h; exact .inr (.inr (.inl ⟨o, es, why, hp, hd, rfl⟩))

end Sys2Proof.Machine
end

