-- ==== Sys2Proof/Tests/Slice0.lean ====
section
/-! SUPPORT. Tests of single steps, with their expected values taken from spec/95_test_vectors.md or from the worked
examples of the rules named, and the witnesses of the statements' hypotheses. -/

namespace Sys2Proof.Tests

open Sys2Proof Sys2Proof.Machine

/-! ### Helpers -/

/-- The next state of an outcome. -/
def nextOf : Host.Outcome State Fault Refusal → Option State
  | .next s => some s
  | .fault _ => none
  | .refused _ => none

/-- One field of the next state of an operation. -/
def after {α : Type} (i : Instr) (s : State) (view : State → α) : Option α := (nextOf (exec i s)).map view

/-- The response an operation returns. -/
def answer (i : Instr) (s : State) : Option Response := (nextOf (exec i s)).bind (fun t => t.responses.getLast?)

/-- A response without error. -/
def ok (v : RspVal) : Option Response := some { err := false, val := v }

/-- The error response of R77. -/
def error : Option Response := some { err := true, val := .none }

/-- The block after reset with `RBX_CAP = 4` and `PQ_DEPTH = 2`. -/
def base : State := State.resetWith { pqDepth := 2, rbxCap := 4 }

/-- A ring with its oldest byte in slot 0. -/
def ringOf (cap : Nat) (l : List Byte) : Machine.Ring :=
  { head := 0
    tail := BitVec.ofNat 16 (l.length % cap)
    len := BitVec.ofNat 17 l.length
    mem := (List.range l.length).foldl (fun m i => Memory.write m i (l.getD i 0)) [] }

/-- The block with bytes in its host ring. -/
def holding (l : List Byte) : State := base.withRbx (ringOf 4 l)

/-- The block with another framer. -/
def framing (f : Framer) : State := base.withFr f

/-- The packet of the source's `StartContinuousOutput` frame, `02 00 02 00 20 24 34 08` (V2). -/
def startPacket : Packet := { address := 0x00, length := 2, body := [0x20, 0x24], checksum := 0x0834 }

/-- The packet of the source's `GetStatus` frame, `02 00 01 00 31 15 12` (V1). -/
def statusPacket : Packet := { address := 0x00, length := 1, body := [0x31], checksum := 0x1215 }

/-- After `02` (V2's CRC trace). -/
def inAddress : Framer := { Framer.reset with fst := .address, fCrc := 0x0002, fPrev := 0x02, totalBytesSeen := 1 }

/-- After `02 00` (V2's CRC trace). -/
def inLengthLow : Framer := { inAddress with fst := .lengthLow, fCrc := 0x0204, fPrev := 0x00, totalBytesSeen := 2 }

/-- After `02 00 lo`, the CRC registers left open to the caller. -/
def inLengthHigh (lo : Byte) (crc : U16) : Framer :=
  { inLengthLow with fst := .lengthHigh, fLenLo := lo, fCrc := crc, fPrev := lo, totalBytesSeen := 3 }

/-- After `02 00 02 00 20` (V2's CRC trace). -/
def inBody : Framer :=
  { Framer.reset with
    fst := .body, fLenLo := 2, fLen := 2, fRem := 1
    fCrc := 0x1408, fPrev := 0x20, acc := ringOf 1024 [0x20], totalBytesSeen := 5 }

/-- After `02 00 02 00 20 24` (V2's CRC trace). -/
def inChecksumLow : Framer :=
  { inBody with
    fst := .checksumLow, fRem := 0
    fCrc := 0x0834, fPrev := 0x24, acc := ringOf 1024 [0x20, 0x24], totalBytesSeen := 6 }

/-- After `02 00 02 00 20 24 34`. -/
def inChecksumHigh : Framer := { inChecksumLow with fst := .checksumHigh, fCkLo := 0x34, totalBytesSeen := 7 }

/-- The framer of `inChecksumHigh`, with both places of the packet queue taken. -/
def inChecksumHighFull : Framer := { inChecksumHigh with pq := [statusPacket, startPacket] }

/-! ### WellFormed: an ill-formed term for each check -/

theorem test_wellFormed_refuses_reserved_selector : Instr.wellFormed (.frStat 0x07) = false := by decide

theorem test_wellFormed_accepts_last_selector : Instr.wellFormed (.frStat 0x06) = true := by decide

theorem test_wellFormed_refuses_long_body : Instr.wellFormed (.enc 0x00 (List.replicate 1024 0x00)) = false := by
  simp only [Instr.wellFormed, bodyOk, List.length_replicate]; decide

theorem test_wellFormed_accepts_longest_body : Instr.wellFormed (.enc 0x00 (List.replicate 1023 0x00)) = true := by
  simp only [Instr.wellFormed, bodyOk, List.length_replicate]; decide

/-! ### Decode: words written out bit by bit from R71 and R74 -/

theorem test_decode_block_and_crcu :
    decode { word := 0b0000000000000000, payload := [] } = .op .nop ∧
    decode { word := 0b0000000100000000, payload := [] } = .op .crcClr ∧
    decode { word := 0b0000001010100101, payload := [] } = .op (.crcUpd 0xA5) ∧
    decode { word := 0b0000001100000000, payload := [] } = .op .crcRd := by decide

theorem test_decode_rbx :
    decode { word := 0b0001000000000000, payload := [] } = .op .rbClr ∧
    decode { word := 0b0001000110000001, payload := [] } = .op (.rbWr 0x81) ∧
    decode { word := 0b0001001000000000, payload := [] } = .op .rbRd ∧
    decode { word := 0b0001001100000000, payload := [] } = .op .rbLen := by decide

theorem test_decode_fr :
    decode { word := 0b0010000000000000, payload := [] } = .op .frRst ∧
    decode { word := 0b0010000100110100, payload := [] } = .op (.frFeed 0x34) ∧
    decode { word := 0b0010001000000000, payload := [] } = .op .frHas ∧
    decode { word := 0b0010001100000000, payload := [] } = .op .frPop ∧
    decode { word := 0b0010010000000110, payload := [] } = .op (.frStat 0x06) := by decide

theorem test_decode_enc :
    decode { word := 0b0011000000000101, payload := [0x31, 0x02] } = .op (.enc 0x05 [0x31, 0x02]) ∧
    decode { word := 0b0011000011111111, payload := [] } = .op (.enc 0xFF []) := by decide

/-- T-BLK-2 to T-BLK-5. -/
theorem test_decode_reserved :
    decode { word := 0x0001, payload := [] } = .reserved .argument ∧
    ([0x0400, 0x0FFF, 0x1400, 0x2500, 0x31AA, 0xFFFF].all
      (fun w => decode { word := w, payload := [] } = .reserved .opcode)) = true ∧
    decode { word := 0x0300, payload := [0x01] } = .reserved .payload ∧
    ([0x1301, 0x2001, 0x2201, 0x2301, 0x1001, 0x1201, 0x0101].all
      (fun w => decode { word := w, payload := [] } = .reserved .argument)) = true := by decide

/-- The first step of R75 that applies decides: a payload and a non-zero argument together. -/
theorem test_decode_payload_before_argument :
    decode { word := 0x0305, payload := [0x01] } = .reserved .payload ∧
    decode { word := 0x0405, payload := [0x01] } = .reserved .opcode := by decide

theorem test_decodeTableWord :
    decodeTableWord 16 0x2102 = some (.frFeed 0x02) ∧ decodeTableWord 16 0x3005 = some (.enc 0x05 []) ∧
    decodeTableWord 16 0x0400 = none := by decide

/-! ### CRC -/

/-- T-CRC-1 to T-CRC-11. -/
theorem test_crcStep_vectors :
    crcStep 0x0000 0x00 0x00 = (0x0000, 0x00) ∧ crcStep 0x0000 0x00 0xFF = (0x00FF, 0xFF) ∧
    crcStep 0x8000 0x00 0x00 = (0x8005, 0x00) ∧ crcStep 0xFFFF 0xFF 0xFF = (0x8004, 0xFF) ∧
    crcStep 0x7FFF 0x00 0x00 = (0xFFFE, 0x00) ∧ crcStep 0x8005 0x12 0x34 = (0x923B, 0x34) ∧
    crcStep 0xFFFF 0x00 0x00 = (0x7FFB, 0x00) ∧ crcStep 0x0002 0x02 0x00 = (0x0204, 0x00) ∧
    crcStep 0x1234 0x56 0x78 = (0x7210, 0x78) ∧ crcStep 0x4000 0x00 0x01 = (0x8001, 0x01) ∧
    crcStep 0xC000 0xAA 0x55 = (0xAA50, 0x55) := by decide

/-- T-CRC-20 to T-CRC-28. -/
theorem test_crc16_vectors :
    crc16 [] = 0x0000 ∧ crc16 [0x00, 0x00] = 0x0000 ∧ crc16 [0x01] = 0x0001 ∧ crc16 [0xFF, 0xFF] = 0xFE01 ∧
    crc16 [0x00, 0x02] = 0x0002 ∧ crc16 [0x02, 0x00] = 0x0204 ∧ crc16 [0x01, 0x02, 0x03] = 0x0003 ∧
    crc16 [0x31, 0x32, 0x33, 0x34, 0x35, 0x36, 0x37, 0x38, 0x39] = 0xA656 ∧ crc16 [0x31, 0x32] = 0x3150 := by
  decide

/-- V1 to V3, the source's golden vectors. -/
theorem test_crc16_golden :
    crc16 [0x02, 0x00, 0x01, 0x00, 0x31] = 0x1215 ∧ crc16 [0x02, 0x00, 0x02, 0x00, 0x20, 0x24] = 0x0834 ∧
    crc16 [0x02, 0x00, 0x02, 0x00, 0x20, 0x25] = 0x0835 := by decide

/-- R105's example. -/
theorem test_crcClr :
    after .crcClr (base.withCrcu { crc := 0x1215, prev := 0x31 }) (fun t => t.crcu) =
      some { crc := 0x0000, prev := 0x00 } := by decide

/-- R106's example. -/
theorem test_crcUpd :
    after (.crcUpd 0x00) (base.withCrcu { crc := 0x0002, prev := 0x02 }) (fun t => t.crcu) =
      some { crc := 0x0204, prev := 0x00 } := by decide

/-- T-CRC-6, as the operation. -/
theorem test_crcUpd_polynomial :
    after (.crcUpd 0x34) (base.withCrcu { crc := 0x8005, prev := 0x12 }) (fun t => t.crcu) =
      some { crc := 0x923B, prev := 0x34 } := by decide

/-- The last step of T-CRC-30. -/
theorem test_crcRd : answer .crcRd (base.withCrcu { crc := 0x3150, prev := 0x32 }) = ok (.u16 0x3150) := by decide

/-! ### RBX -/

/-- T-RB-3. -/
theorem test_rbClr : after .rbClr (holding [0x41, 0x42]) (fun t => (t.rbx.contents 4, t.rbx.len)) = some ([], 0) := by
  decide

/-- T-RB-4: overwrite of the oldest byte. -/
theorem test_rbWr_full :
    after (.rbWr 0x05) (holding [0x01, 0x02, 0x03, 0x04]) (fun t => (t.rbx.contents 4, t.rbx.len)) =
      some ([0x02, 0x03, 0x04, 0x05], 4) := by decide

/-- The second write of T-RB-7, `RBX_CAP = 1`. -/
theorem test_rbWr_capacity_one :
    after (.rbWr 0xBB) ((State.resetWith { pqDepth := 2, rbxCap := 1 }).withRbx (ringOf 1 [0xAA]))
      (fun t => (t.rbx.contents 1, t.rbx.len)) = some ([0xBB], 1) := by decide

/-- T-RB-5, with the pointers of R129's example: the head is at slot 1, where the write of T-RB-4 left it. -/
theorem test_rbRd :
    (nextOf (exec .rbRd (base.withRbx ((ringOf 4 [0x01, 0x02, 0x03, 0x04]).write 4 0x05)))).map
      (fun t => (t.responses, t.rbx.contents 4, t.rbx.head)) =
      some ([{ err := false, val := .byte true 0x02 }], [0x03, 0x04, 0x05], 2) := by decide

/-- T-RB-1. -/
theorem test_rbRd_empty : answer .rbRd base = ok (.byte false 0x00) := by decide

/-- T-RB-6. -/
theorem test_rbLen : answer .rbLen (holding [0x01, 0x02, 0x03, 0x04]) = ok (.u32 4) := by decide

/-! ### ENC -/

/-- T-ENC-2 to T-ENC-4: an empty body, the address in the CRC, no escape of `0x02`. -/
theorem test_enc :
    answer (.enc 0xFF []) base = ok (.frame [0x02, 0xFF, 0x00, 0x00, 0xE9, 0x75]) ∧
    answer (.enc 0x05 [0x31]) base = ok (.frame [0x02, 0x05, 0x01, 0x00, 0x31, 0x3D, 0x06]) ∧
    answer (.enc 0x00 [0x02]) base = ok (.frame [0x02, 0x00, 0x01, 0x00, 0x02, 0x26, 0x12]) := by decide

/-- The fixed command frames of R146. -/
theorem test_enc_fixed_commands :
    Config.fixedCommandBodies.map (fun body => answer (.enc Config.commandAddress body) base) =
      [ok (.frame [0x02, 0x00, 0x01, 0x00, 0x10, 0x34, 0x12]),
       ok (.frame [0x02, 0x00, 0x02, 0x00, 0x20, 0x40, 0x50, 0x08]),
       ok (.frame [0x02, 0x00, 0x02, 0x00, 0x20, 0x41, 0x51, 0x08]),
       ok (.frame [0x02, 0x00, 0x02, 0x00, 0x20, 0x42, 0x52, 0x08]),
       ok (.frame [0x02, 0x00, 0x02, 0x00, 0x20, 0x24, 0x34, 0x08]),
       ok (.frame [0x02, 0x00, 0x02, 0x00, 0x20, 0x25, 0x35, 0x08]),
       ok (.frame [0x02, 0x00, 0x01, 0x00, 0x31, 0x15, 0x12])] := by decide

/-- V9: the packet of a measurement body, its command and its wire form. -/
theorem test_packet_accessors :
    (Packet.ofBody 0x00 [0xB0, 0x01, 0x00, 0x34, 0x12]).wire =
      [0x02, 0x00, 0x05, 0x00, 0xB0, 0x01, 0x00, 0x34, 0x12, 0x29, 0x98] ∧
    (Packet.ofBody 0x00 [0xB0, 0x01, 0x00, 0x34, 0x12]).command = some Config.rspMeasurement ∧
    (Packet.ofBody 0x00 []).command = none ∧ startPacket.isValid = true := by decide

/-! ### FR -/

/-- The bytes of V2's frame, each in the framer state the bytes before it leave (V2's CRC trace), and the noise byte
of T-FR-1. -/
theorem test_frFeed_states :
    after (.frFeed 0xFF) base (fun t => (t.fr.fst, t.fr.totalBytesSeen, t.fr.droppedBytes)) =
      some (.awaitingStx, 1, 1) ∧
    after (.frFeed 0x02) base (fun t => t.fr) = some inAddress ∧
    after (.frFeed 0x00) (framing inAddress) (fun t => t.fr) = some inLengthLow ∧
    after (.frFeed 0x02) (framing inLengthLow) (fun t => t.fr) = some (inLengthHigh 0x02 0x040A) ∧
    after (.frFeed 0x24) (framing inBody) (fun t => t.fr) = some inChecksumLow ∧
    after (.frFeed 0x34) (framing inChecksumLow) (fun t => t.fr) = some inChecksumHigh ∧
    after (.frFeed 0x08) (framing inChecksumHigh) (fun t => (t.fr.fst, t.fr.acc.len, t.fr.pq)) =
      some (.awaitingStx, 0, [startPacket]) := by decide

/-- T-FR-3 (`02 00 00 04`), T-FR-6 (`02 00 FF 03`), T-FR-7 (`02 00 00 00`), the wrong checksum byte of T-FR-9, and
the decay of T-FR-DECAY-2 and T-FR-DECAY-3. -/
theorem test_frFeed_boundaries :
    after (.frFeed 0x04) (framing (inLengthHigh 0x00 0x0408))
      (fun t => (t.fr.fst, t.fr.badPacketCount, t.fr.badPacketStreak)) = some (.awaitingStx, 1, 0) ∧
    after (.frFeed 0x03) (framing (inLengthHigh 0xFF 0x04F7)) (fun t => (t.fr.fst, t.fr.fLen, t.fr.fRem)) =
      some (.body, 1023, 1023) ∧
    after (.frFeed 0x00) (framing (inLengthHigh 0x00 0x0408)) (fun t => (t.fr.fst, t.fr.fLen, t.fr.fCrc)) =
      some (.checksumLow, 0, 0x0810) ∧
    after (.frFeed 0x09) (framing inChecksumHigh)
      (fun t => (t.fr.badPacketStreak, t.fr.badPacketCount, t.fr.pq)) = some (1, 1, []) ∧
    after (.frFeed 0xFF) (framing { Framer.reset with totalBytesSeen := 0x10000, droppedBytes := 0x10000 })
      (fun t => (t.fr.totalBytesSeen, t.fr.droppedBytes)) = some (52429, 52429) ∧
    after (.frFeed 0x02) (framing { Framer.reset with totalBytesSeen := 0x10000, droppedBytes := 0x10000 })
      (fun t => (t.fr.totalBytesSeen, t.fr.droppedBytes)) = some (52429, 52428) := by decide

/-- T-FR-36: the framer and its queue at reset. -/
theorem test_frRst : after .frRst (framing { inBody with pq := [statusPacket] }) (fun t => (t.fr.fst, t.fr.pq, t.fr.totalBytesSeen)) =
    some (.awaitingStx, [], 0) := by decide

/-- T-FR-31, and R182's example. -/
theorem test_frHas :
    answer .frHas base = ok (.bool false) ∧
    answer .frHas (framing { Framer.reset with pq := [statusPacket] }) = ok (.bool true) := by decide

/-- The first pop of T-FR-35's kind: the oldest packet goes, the other stays. -/
theorem test_frPop :
    answer .frPop (framing inChecksumHighFull) = ok (.pkt (some statusPacket)) ∧
    after .frPop (framing inChecksumHighFull) (fun t => t.fr.pq) = some [startPacket] := by decide

/-- T-FR-30. -/
theorem test_frPop_empty : answer .frPop base = ok (.pkt none) := by decide

/-- T-FR-32 and the ratios of T-FR-1 (9 bytes, 1 dropped), T-FR-15 (12, 4) and T-FR-DECAY-3. -/
theorem test_frStat_ratio :
    answer (.frStat 0x04) base = ok (.u32 0) ∧
    answer (.frStat 0x04) (framing { Framer.reset with totalBytesSeen := 9, droppedBytes := 1 }) = ok (.u32 11) ∧
    answer (.frStat 0x04) (framing { Framer.reset with totalBytesSeen := 12, droppedBytes := 4 }) = ok (.u32 33) ∧
    answer (.frStat 0x04) (framing { Framer.reset with totalBytesSeen := 52429, droppedBytes := 52428 }) =
      ok (.u32 99) := by decide

/-- R32's selectors, and T-FR-34. -/
theorem test_frStat_selectors :
    [0x00, 0x01, 0x02, 0x03, 0x05, 0x06, 0x07, 0xFF].map (fun sel => answer (.frStat sel)
      (framing { Framer.reset with
        totalBytesSeen := 10, droppedBytes := 11, badPacketStreak := 12, badPacketCount := 13, pqOverflow := 15
        pq := [statusPacket] })) =
      [ok (.u32 10), ok (.u32 11), ok (.u32 12), ok (.u32 13), ok (.u32 1), ok (.u32 15), error, error] := by decide

/-- T-FR-17's last frame, in small: a valid packet into a full queue of two. -/
theorem test_queue_overflow :
    after (.frFeed 0x08) (framing inChecksumHighFull) (fun t => (t.fr.pq, t.fr.pqOverflow)) =
      some ([startPacket, startPacket], 1) := by decide

/-- R14: a counter at its largest value stays there. -/
theorem test_counter_saturates :
    satInc (0xFFFFFFFF : Counter) = 0xFFFFFFFF ∧ satInc (0xFFFFFFFE : StreakCounter) = 0xFFFFFFFF := by decide

/-! ### The block -/

/-- T-BLK-1. -/
theorem test_nop : answer .nop base = ok .none := by decide

/-- T-BLK-6, as a step: the word is taken off the port and performed. -/
theorem test_step_performs_the_word :
    (nextOf (step (base.withFetchWord 16 0x0231))).map (fun t => (t.crcu, t.pending, t.responses)) =
      some ({ crc := 0x0031, prev := 0x31 }, [], [{ err := false, val := .none }]) := by decide

/-- T-BLK-4, as a step. -/
theorem test_step_reserved :
    nextOf (step (base.withPending [.op { word := 0x0300, payload := [0x01] }])) = some (respondErr base) := by decide

/-- R220. -/
theorem test_step_reset_event :
    nextOf (step ((framing inChecksumHighFull).withPending [.reset])) = some base := by decide

/-- R201's rows, one event each. -/
theorem test_events :
    opEvents { word := 0x21FF, payload := [] } base = [.framingNoise] ∧
    opEvents { word := 0x2109, payload := [] } (framing inChecksumHigh) = [.checksumMismatch] ∧
    opEvents { word := 0x2104, payload := [] } (framing (inLengthHigh 0x00 0x0408)) = [.oversizedLength] ∧
    opEvents { word := 0x2407, payload := [] } base = [.reservedOperation] ∧
    opEvents { word := 0x2108, payload := [] } (framing inChecksumHighFull) = [.queueOverflow] ∧
    opEvents { word := 0x1105, payload := [] } (holding [0x01, 0x02, 0x03, 0x04]) = [.ringOverwrite] := by decide

/-! ### Assembler text -/

/-- R81: `FR_FEED 0x02` is `0x2102`; a selector name; an encoder line with a comment. -/
theorem test_asm_lines :
    (assembleText ["FR_FEED 0x02"]).map assembledOps = some [{ word := 0x2102, payload := [] }] ∧
    (assembleText ["fr_stat RATIO"]).map assembledOps = some [{ word := 0x2404, payload := [] }] ∧
    (assembleText ["ENC 5, [0x31] ; status"]).map assembledOps = some [{ word := 0x3005, payload := [0x31] }] ∧
    assembleText ["FR_FEED 256"] = none := by decide

/-- R82: the lines of P7 in small. -/
theorem test_asm_repeat :
    assembleText [".rep 2", "FR_ADD 0xFF, 2", ".endr", "CRC_BYTES 0x31"] =
      some [.frFeed 0xFF, .frFeed 0x02, .frFeed 0xFF, .frFeed 0x02, .crcClr, .crcUpd 0x31] := by decide

/-! ### Witnesses: states and operands that meet the hypotheses of each statement that has any, each clause at the
ends of its range -/

/-- The bytes of V2's frame but for its last, received: a state that meets every invariant, a packet queued. -/
def waiting : State := (framing { inChecksumHigh with pq := [statusPacket] }).withRbx (ringOf 4 [0x41, 0x42])

/-- The parameters at the low end of R10's ranges. -/
theorem params_low : ({ pqDepth := 1, rbxCap := 1 } : Config.Params).Ok := ⟨by decide, by decide, by decide⟩

/-- The parameters at the high end of R10's range of `RBX_CAP`. -/
theorem params_high : ({ pqDepth := 16, rbxCap := 65535 } : Config.Params).Ok := ⟨by decide, by decide, by decide⟩

theorem base_params : base.params.Ok := ⟨by decide, by decide, by decide⟩

theorem ring_empty_inv (cap : Nat) (h : 0 < cap) : Ring.reset.Inv cap :=
  ⟨Nat.zero_le _, h, h, (Nat.zero_mod cap).symm, rfl, by simp [Ring.reset]⟩

theorem ring_two_inv : (ringOf 4 [0x41, 0x42]).Inv 4 :=
  ⟨by decide, by decide, by decide, by decide, by decide, by decide⟩

theorem ring_full_inv : (ringOf 4 [0x01, 0x02, 0x03, 0x04]).Inv 4 :=
  ⟨by decide, by decide, by decide, by decide, by decide, by decide⟩

/-- A full ring whose pointers have moved (R129's example: capacity 3, head and tail at slot 1). -/
theorem ring_wrapped_inv : ((ringOf 3 [0x01, 0x02, 0x03]).write 3 0x04).Inv 3 :=
  ⟨by decide, by decide, by decide, by decide, by decide, by decide⟩

theorem acc_one_inv : (ringOf 1024 [0x20]).Inv 1024 :=
  ⟨by decide, by decide, by decide, by decide, by decide, by decide⟩

theorem acc_two_inv : (ringOf 1024 [0x20, 0x24]).Inv 1024 :=
  ⟨by decide, by decide, by decide, by decide, by decide, by decide⟩

theorem reset_framer_inv : Framer.reset.Inv 2 :=
  ⟨ring_empty_inv 1024 (by decide), ⟨rfl, rfl⟩, by decide, by decide, by decide⟩

theorem inBody_inv : inBody.Inv 2 :=
  ⟨acc_one_inv, ⟨by decide, by decide, by decide, by decide⟩, by decide, by decide, by decide⟩

theorem base_inv : base.Inv := ⟨base_params, ring_empty_inv 4 (by decide), reset_framer_inv⟩

theorem waiting_inv : waiting.Inv :=
  ⟨base_params, ring_two_inv, ⟨acc_two_inv, ⟨by decide, by decide, by decide⟩, by decide, by decide, by decide⟩⟩

theorem waiting_runningCrc : waiting.fr.RunningCrc :=
  show (waiting.fr.fCrc, waiting.fr.fPrev) = _ by decide

theorem waiting_queueGood : waiting.QueueGood := by
  intro p hp
  obtain rfl : p = statusPacket := List.mem_singleton.mp hp
  exact ⟨by decide, by decide, by decide⟩

theorem witness_EncodeOfDecodedIsTheTransaction :
    decode { word := 0x3005, payload := [0x31] } = .op (.enc 0x05 [0x31]) := by decide

theorem witness_StepPerformsTheDecodedOperation :
    (base.withPending [.op { word := 0x2102, payload := [] }]).pending = .op { word := 0x2102, payload := [] } :: [] ∧
    decode { word := 0x2102, payload := [] } = .op (.frFeed 0x02) := by decide

/-- Each of the three reasons of R78. -/
theorem witness_ReservedOperationGivesErrorResponse :
    (base.withPending [.op { word := 0x0400, payload := [] }]).pending = .op { word := 0x0400, payload := [] } :: [] ∧
    decode { word := 0x0400, payload := [] } = .reserved .opcode ∧
    (base.withPending [.op { word := 0x0300, payload := [0x01] }]).pending =
      .op { word := 0x0300, payload := [0x01] } :: [] ∧
    decode { word := 0x0300, payload := [0x01] } = .reserved .payload ∧
    (base.withPending [.op { word := 0x0001, payload := [] }]).pending = .op { word := 0x0001, payload := [] } :: [] ∧
    decode { word := 0x0001, payload := [] } = .reserved .argument := by decide

theorem witness_ResetEventPutsResetValues : (waiting.withPending [.reset]).pending = .reset :: [] := by decide

theorem witness_EveryStepAnswersANextState : State.reset.pending = [] := by decide

theorem enc_of_long {a : Byte} {body : List Byte} (s : State) (h : body.length > 1023) :
    exec (.enc a body) s = .next (respondErr s) := if_pos h

theorem enc_of_short {a : Byte} {body : List Byte} (s : State) (h : ¬ body.length > 1023) :
    exec (.enc a body) s = .next (respond (.frame (Packet.ofBody a body).wire) s) := if_neg h

/-- Both sides of the equivalence: the first reserved selector and the last named one, a body one byte too long and
the longest body. -/
theorem witness_ErrorResponseOnlyForBadOperands :
    exec (.frStat 0x07) base = .next (respondErr base) ∧
    exec (.frStat 0x06) base = .next (respond (.u32 0) base) ∧
    exec (.enc 0x00 (List.replicate 1024 0x00)) base = .next (respondErr base) ∧
    (∃ t, exec (.enc 0x00 (List.replicate 1023 0x00)) base = .next t ∧ ∃ l, t = respond (.frame l) base) := by
  have long : (List.replicate 1024 (0x00 : Byte)).length > 1023 := by rw [List.length_replicate]; decide
  have short : ¬ (List.replicate 1023 (0x00 : Byte)).length > 1023 := by rw [List.length_replicate]; decide
  exact ⟨rfl, rfl, enc_of_long base long, _, enc_of_short base short, _, rfl⟩

theorem witness_RunPerformsOperationsInIssueOrder : base.pending = [] := by decide

theorem witness_FetchWordIsPerformedNext : decodeTableWord 16 0x2102 = some (.frFeed 0x02) := by decide

/-- Updates with operations of other units, and a CRC_RD, in between; and no update at all. The unit is clear after
reset and after the reset event, with no CRC_CLR (T-CRC-31, T-CRC-33). -/
theorem witness_CrcUpdatesComputeCrc16 :
    (∀ i ∈ [Instr.crcUpd 0x31, .frFeed 0x02, .crcRd, .enc 0x00 [0x10], .crcUpd 0x32], i ≠ .crcClr) ∧
    (∀ i ∈ ([] : List Instr), i ≠ .crcClr) ∧ State.reset.crcu = { crc := 0x0000, prev := 0x00 } ∧
    (blockReset (base.withCrcu { crc := 0x1215, prev := 0x31 })).crcu = { crc := 0x0000, prev := 0x00 } := by decide

/-- Capacities at both ends of R10's range; an empty ring, a full one and one between. -/
theorem witness_RingPrimitives :
    (1 ≤ 1 ∧ 1 ≤ 65535 ∧ Ring.reset.Inv 1) ∧ (1 ≤ 65535 ∧ 65535 ≤ 65535 ∧ Ring.reset.Inv 65535) ∧
    (1 ≤ 3 ∧ 3 ≤ 65535 ∧ ((ringOf 3 [0x01, 0x02, 0x03]).write 3 0x04).Inv 3) ∧ (ringOf 4 [0x41, 0x42]).Inv 4 ∧
    (ringOf 4 [0x41, 0x42]).contents 4 = 0x41 :: [0x42] ∧ Ring.reset.contents 4 = [] :=
  ⟨⟨by decide, by decide, ring_empty_inv 1 (by decide)⟩, ⟨by decide, by decide, ring_empty_inv 65535 (by decide)⟩,
    ⟨by decide, by decide, ring_wrapped_inv⟩, ring_two_inv, by decide, by decide⟩

theorem witness_RbClrEmptiesTheRing :
    exec .rbClr (holding [0x41, 0x42]) = .next (respond .none ((holding [0x41, 0x42]).withRbx
      { head := 0, tail := 0, len := 0, mem := [(0, 0x41), (1, 0x42)] })) ∧
    1 ≤ (holding [0x41, 0x42]).params.rbxCap := ⟨rfl, by decide⟩

/-- A ring with room and a full ring. -/
theorem witness_RbWrStoresAtTheTail :
    (holding [0x41, 0x42]).params.Ok ∧ Memory.wf (holding [0x41, 0x42]).rbx.mem = true ∧
    (holding [0x41, 0x42]).rbx.len.toNat ≠ 4 ∧
    (holding [0x01, 0x02, 0x03, 0x04]).params.Ok ∧ Memory.wf (holding [0x01, 0x02, 0x03, 0x04]).rbx.mem = true ∧
    (holding [0x01, 0x02, 0x03, 0x04]).rbx.len.toNat = 4 :=
  ⟨base_params, by decide, by decide, base_params, by decide, by decide⟩

/-- For RbWritesKeepTheNewestBytes and RbReadsReturnTheContentsInOrder. -/
theorem witness_RbWritesAndReads :
    (holding [0x01, 0x02, 0x03, 0x04]).params.Ok ∧
    (holding [0x01, 0x02, 0x03, 0x04]).rbx.Inv (holding [0x01, 0x02, 0x03, 0x04]).params.rbxCap ∧
    base.params.Ok ∧ base.rbx.Inv base.params.rbxCap :=
  ⟨base_params, ring_full_inv, base_params, ring_empty_inv 4 (by decide)⟩

theorem witness_RbRdTakesTheByteAtTheHead : base.rbx.len = 0 ∧ (holding [0x41]).rbx.len ≠ 0 := by decide

theorem witness_RbLenReturnsTheNumberOfStoredBytes :
    (holding [0x01, 0x02, 0x03, 0x04]).rbx.Inv (holding [0x01, 0x02, 0x03, 0x04]).params.rbxCap := ring_full_inv

/-- A packet with no body and one with a body; both keep the length invariant. -/
theorem witness_PacketDerivedFields :
    (Packet.ofBody 0x00 []).length = 0 ∧ (Packet.ofBody 0x00 []).body.length = (Packet.ofBody 0x00 []).length.toNat ∧
    statusPacket.length ≠ 0 ∧ statusPacket.body = 0x31 :: [] ∧
    statusPacket.body.length = statusPacket.length.toNat := by decide

/-- The empty body and the longest one. -/
theorem witness_EncFrameIsTheWireFormOfAGoodPacket :
    ([] : List Byte).length ≤ 1023 ∧ (List.replicate 1023 (0x00 : Byte)).length ≤ 1023 :=
  ⟨by decide, by rw [List.length_replicate]⟩

/-- Both sides of the decay: the byte that brings the count to `0x10000`, and the next one. -/
theorem witness_FeedCountsAndDecays :
    ¬ 0x10000 < ((framing { Framer.reset with totalBytesSeen := 0xFFFF }).fr.totalBytesSeen + 1).toNat ∧
    0x10000 < ((framing { Framer.reset with totalBytesSeen := 0x10000 }).fr.totalBytesSeen + 1).toNat := by decide

theorem witness_FeedInAwaitingStx : base.fr.fst = .awaitingStx := by decide

theorem witness_FeedInAddressLengthLowChecksumLow :
    (framing inAddress).fr.fst = .address ∧ (framing inLengthLow).fr.fst = .lengthLow ∧
    (framing inChecksumLow).fr.fst = .checksumLow := by decide

/-- The lengths 0, 1, 1023 and 1024, where the three clauses meet. -/
theorem witness_FeedInLengthHigh :
    (framing (inLengthHigh 0x00 0x0408)).fr.fst = .lengthHigh ∧
    256 * (0x00 : Byte).toNat + (framing (inLengthHigh 0x00 0x0408)).fr.fLenLo.toNat = 0 ∧
    256 * (0x00 : Byte).toNat + (framing (inLengthHigh 0x01 0x0409)).fr.fLenLo.toNat = 1 ∧
    256 * (0x03 : Byte).toNat + (framing (inLengthHigh 0xFF 0x04F7)).fr.fLenLo.toNat = 1023 ∧
    256 * (0x04 : Byte).toNat + (framing (inLengthHigh 0x00 0x0408)).fr.fLenLo.toNat = 1024 := by decide

theorem witness_FeedInBody : (framing inBody).fr.fst = .body ∧ Memory.wf (framing inBody).fr.acc.mem = true := by
  decide

/-- The right checksum byte and a wrong one; the queue with room and full. -/
theorem witness_FeedInChecksumHigh :
    (framing inChecksumHigh).fr.fst = .checksumHigh ∧
    (framing inChecksumHigh).fr.fCrc = BitVec.ofNat 16 (256 * (0x08 : Byte).toNat + inChecksumHigh.fCkLo.toNat) ∧
    (framing inChecksumHigh).fr.fCrc ≠ BitVec.ofNat 16 (256 * (0x09 : Byte).toNat + inChecksumHigh.fCkLo.toNat) ∧
    (framing inChecksumHigh).fr.pq.length ≠ 2 ∧ (framing inChecksumHighFull).fr.fst = .checksumHigh ∧
    (framing inChecksumHighFull).fr.pq.length = (framing inChecksumHighFull).params.pqDepth := by decide

theorem witness_FrPopTakesTheOldestPacket :
    base.fr.pq = [] ∧ (framing inChecksumHighFull).fr.pq = statusPacket :: [startPacket] := by decide

/-- The last named selector, and the first and last reserved ones. -/
theorem witness_FrStatReturnsTheSelectedStatistic :
    (0x06 : Byte) = 0x06 ∧ ¬ 7 ≤ (0x06 : Byte).toNat ∧ 7 ≤ (0x07 : Byte).toNat ∧ 7 ≤ (0xFF : Byte).toNat := by decide

theorem witness_NoiseRatioIsAPercentage : inBody.Inv 2 := inBody_inv

/-- For the three invariants: a step that enqueues a packet. -/
theorem witness_StepKeepsInvariants :
    (waiting.withPending [.op { word := 0x2108, payload := [] }]).Inv ∧
    (waiting.withPending [.op { word := 0x2108, payload := [] }]).fr.RunningCrc ∧
    (waiting.withPending [.op { word := 0x2108, payload := [] }]).QueueGood ∧
    ((nextOf (step (waiting.withPending [.op { word := 0x2108, payload := [] }]))).map (fun t => t.fr.pq)) =
      some [statusPacket, startPacket] :=
  ⟨⟨waiting_inv.params_ok, waiting_inv.rbx_inv, waiting_inv.fr_inv⟩, waiting_runningCrc, waiting_queueGood, by decide⟩

theorem witness_ResetMeetsTheInvariants :
    ({ pqDepth := 1, rbxCap := 1 } : Config.Params).Ok ∧ ({ pqDepth := 16, rbxCap := 65535 } : Config.Params).Ok :=
  ⟨params_low, params_high⟩

theorem witness_AccNeverOverflows : (framing inBody).Inv ∧ (framing inBody).fr.fst = .body :=
  ⟨⟨base_params, ring_empty_inv 4 (by decide), inBody_inv⟩, by decide⟩

/-- The streak kept, incremented and set to 0. -/
theorem witness_StreakChangesOnlyWhenAFrameIsJudged :
    let s := framing { inChecksumHigh with badPacketStreak := 1 }
    after .frHas s (fun t => t.fr.badPacketStreak) = some 1 ∧
    after (.frFeed 0x09) s (fun t => t.fr.badPacketStreak) = some 2 ∧
    after (.frFeed 0x08) s (fun t => t.fr.badPacketStreak) = some 0 ∧
    after .frRst s (fun t => t.fr.badPacketStreak) = some 0 := by decide

/-- The output rises, falls by the last pop, does not fall by another. -/
theorem witness_PacketAvailableRisesAndFalls :
    (waiting.withPending [.reset]).pending = .reset :: [] ∧
    (framing inChecksumHigh).pktAvail = false ∧
    after (.frFeed 0x08) (framing inChecksumHigh) (fun t => t.pktAvail) = some true ∧
    waiting.pktAvail = true ∧ waiting.fr.pq.length = 1 ∧ after .frPop waiting (fun t => t.pktAvail) = some false ∧
    after .frPop (framing inChecksumHighFull) (fun t => t.pktAvail) = some true := by decide

/-- Each event of one FR_FEED, and none. -/
theorem witness_FeedEventsAreRecorded :
    opEvents (encode (.frFeed 0xFF)) base = [.framingNoise] ∧ opEvents (encode (.frFeed 0x02)) base = [] ∧
    opEvents (encode (.frFeed 0x09)) (framing inChecksumHigh) = [.checksumMismatch] ∧
    opEvents (encode (.frFeed 0x04)) (framing (inLengthHigh 0x00 0x0408)) = [.oversizedLength] ∧
    opEvents (encode (.frFeed 0x03)) (framing (inLengthHigh 0xFF 0x04F7)) = [] ∧
    opEvents (encode (.frFeed 0x08)) (framing inChecksumHighFull) = [.queueOverflow] := by decide

/-- An operation of each unit that writes state, and one that does not. -/
theorem witness_OperationsWriteOnlyTheirUnit :
    (unitOf .rbRd ≠ .crcu ∧ unitOf .rbRd ≠ .fr) ∧ (unitOf (.crcUpd 0x31) ≠ .rbx ∧ unitOf (.crcUpd 0x31) ≠ .fr) ∧
    (unitOf .frPop ≠ .crcu ∧ unitOf .frPop ≠ .rbx) := by decide

/-- Two states that agree on RBX and on no other unit. -/
theorem witness_OperationsReadOnlyTheirRow :
    (holding [0x41]).params = ((framing inBody).withRbx (ringOf 4 [0x41])).params ∧
    (holding [0x41]).rbx = ((framing inBody).withRbx (ringOf 4 [0x41])).rbx ∧
    (holding [0x41]).fr ≠ ((framing inBody).withRbx (ringOf 4 [0x41])).fr := by decide

theorem witness_OperationsOfDifferentUnitsCommute :
    unitOf (.frFeed 0x08) ≠ unitOf .rbRd ∧ unitOf (.enc 0x00 []) ≠ unitOf (.crcUpd 0x31) ∧
    unitOf .nop ≠ unitOf .frPop := by decide

/-- Two noise bytes that bring the byte count to exactly `0x10000`, where no decay comes yet. -/
theorem witness_NoiseIsCountedAndDropped :
    let s := framing { Framer.reset with totalBytesSeen := 0xFFFE }
    s.fr.fst = .awaitingStx ∧ (∀ b ∈ [(0xFF : Byte), 0x00], b ≠ 0x02) ∧
    s.fr.totalBytesSeen.toNat + [(0xFF : Byte), 0x00].length ≤ 0x10000 := by decide

/-- The smallest oversized length and the largest. -/
theorem witness_OversizedLengthIsAbandoned :
    base.Inv ∧ base.fr.fst = .awaitingStx ∧ 1024 ≤ 256 * (0x04 : Byte).toNat + (0x00 : Byte).toNat ∧
    1024 ≤ 256 * (0xFF : Byte).toNat + (0xFF : Byte).toNat := ⟨base_inv, by decide, by decide, by decide⟩

/-- The empty body and the longest one. -/
theorem witness_EncodedFrameIsReceived :
    base.Inv ∧ base.fr.fst = .awaitingStx ∧ ([] : List Byte).length ≤ 1023 ∧
    (List.replicate 1023 (0x00 : Byte)).length ≤ 1023 :=
  ⟨base_inv, by decide, by decide, by rw [List.length_replicate]⟩

/-- Three frames (T-FR-17's), one more than the queue of `base` holds. -/
theorem witness_FramesFedBackToBackArriveInOrder :
    base.Inv ∧ base.fr.fst = .awaitingStx ∧
    (∀ x ∈ [((0x01 : Byte), [(0x31 : Byte)]), (0x02, [0x31]), (0x03, [0x31])], x.2.length ≤ 1023) :=
  ⟨base_inv, by decide, by decide⟩

theorem witness_FramerReturnsWithinOneFrame :
    waiting.Inv ∧ (List.replicate 1028 (0x02 : Byte)).length = 1028 := ⟨waiting_inv, List.length_replicate⟩

end Sys2Proof.Tests
end

section
namespace Sys2Proof.Machine

/-! ### The ring invariant (R120) -/

/-- An empty ring with its pointers at slot 0 meets R120 when its storage does. -/
theorem Ring.Inv.clear {cap : Nat} {r : Ring} (hcap : 1 ≤ cap) (h : r.Inv cap) : r.clear.Inv cap where
  len_le := Nat.zero_le cap
  head_lt := hcap
  tail_lt := hcap
  tail_eq := (Nat.zero_mod cap).symm
  mem_wf := h.mem_wf
  mem_lt := h.mem_lt

/-- The reset value of a ring meets R120 at every capacity. -/
theorem Ring.reset_inv {cap : Nat} (hcap : 1 ≤ cap) : Ring.reset.Inv cap where
  len_le := Nat.zero_le cap
  head_lt := hcap
  tail_lt := hcap
  tail_eq := (Nat.zero_mod cap).symm
  mem_wf := rfl
  mem_lt := fun _ hc => absurd hc List.not_mem_nil

/-- A write to a ring with room makes it one byte longer. -/
theorem Ring.write_len_toNat {cap : Nat} {r : Ring} (hcap : cap ≤ 65535) (hroom : r.len.toNat < cap) (b : Byte) :
    (r.write cap b).len.toNat = r.len.toNat + 1 := by
  rw [Ring.write_len, if_neg (by omega), BitVec.toNat_add]
  exact Nat.mod_eq_of_lt (show r.len.toNat + 1 < 131072 by omega)

/-- `RingWrite` keeps R120: a ring with room grows at the tail, a full one moves both pointers. -/
theorem Ring.Inv.write {cap : Nat} {r : Ring} (hcap1 : 1 ≤ cap) (hcap : cap ≤ 65535) (h : r.Inv cap) (b : Byte) :
    (r.write cap b).Inv cap := by
  have hnext (p : BitVec 16) : (Ring.next cap p).toNat = (p.toNat + 1) % cap :=
    Ring.next_toNat hcap1 (by omega) p
  have hnext_lt (p : BitVec 16) : (Ring.next cap p).toNat < cap := by
    rw [hnext]; exact Nat.mod_lt _ hcap1
  have hmem_wf : Memory.wf (r.write cap b).mem = true := by
    rw [Ring.write_mem]; exact Memory.wf_write h.mem_wf _ b
  have hmem_lt : ∀ c ∈ (r.write cap b).mem, c.1 < cap := by
    intro c hc
    rw [Ring.write_mem] at hc
    obtain rfl | hc := Memory.mem_write hc
    · exact h.tail_lt
    · exact h.mem_lt c hc
  have htail_lt : (r.write cap b).tail.toNat < cap := by rw [Ring.write_tail]; exact hnext_lt _
  by_cases hfull : r.len.toNat = cap
  · have hhead : (r.write cap b).head = Ring.next cap r.head := by rw [Ring.write_head, if_pos hfull]
    have hlen : (r.write cap b).len = r.len := by rw [Ring.write_len, if_pos hfull]
    refine ⟨hlen ▸ h.len_le, hhead ▸ hnext_lt _, htail_lt, ?_, hmem_wf, hmem_lt⟩
    rw [Ring.write_tail, hhead, hlen, hnext, hnext, h.tail_eq, Nat.mod_add_mod, Nat.mod_add_mod, Nat.add_right_comm]
  · have hroom : r.len.toNat < cap := Nat.lt_of_le_of_ne h.len_le hfull
    have hhead : (r.write cap b).head = r.head := by rw [Ring.write_head, if_neg hfull]
    have hlen := Ring.write_len_toNat hcap hroom b
    refine ⟨by omega, hhead ▸ h.head_lt, htail_lt, ?_, hmem_wf, hmem_lt⟩
    rw [Ring.write_tail, hhead, hlen, hnext, h.tail_eq, Nat.mod_add_mod, Nat.add_assoc]

/-- An empty ring is left as it is by a read (R122). -/
theorem Ring.read_of_empty {cap : Nat} {r : Ring} (h : r.len = 0) : r.read cap = (false, 0x00, r) := if_pos h

/-- A ring that holds a byte loses the one at its head by a read (R122). -/
theorem Ring.read_of_nonempty {cap : Nat} {r : Ring} (h : r.len ≠ 0) :
    r.read cap =
      (true, Memory.read r.mem r.head.toNat, { r with head := Ring.next cap r.head, len := r.len - 1 }) := if_neg h

/-- `RingRead` keeps R120: what leaves at the head is taken off the length. -/
theorem Ring.Inv.read {cap : Nat} {r : Ring} (hcap1 : 1 ≤ cap) (hcap : cap ≤ 65535) (h : r.Inv cap) :
    (r.read cap).2.2.Inv cap := by
  by_cases hempty : r.len = 0
  · rw [Ring.read_of_empty hempty]; exact h
  · have hpos : r.len.toNat ≠ 0 := by simpa [← BitVec.toNat_inj] using hempty
    have hlen : (r.len - 1).toNat = r.len.toNat - 1 := by bv_omega
    have hle := h.len_le
    have hnext := Ring.next_toNat hcap1 (by omega) r.head
    rw [Ring.read_of_nonempty hempty]
    refine ⟨by simp only [hlen]; omega, by simp only [hnext]; exact Nat.mod_lt _ hcap1, h.tail_lt, ?_, h.mem_wf,
      h.mem_lt⟩
    rw [h.tail_eq, hnext, hlen, Nat.mod_add_mod]
    congr 1; omega

/-- A write to a ring with room appends its byte to the contents (R129). -/
theorem Ring.contents_write_of_room {cap : Nat} {r : Ring} (hcap : cap ≤ 65535) (h : r.Inv cap)
    (hroom : r.len.toNat < cap) (b : Byte) : (r.write cap b).contents cap = r.contents cap ++ [b] := by
  have hhead : (r.write cap b).head = r.head := by rw [Ring.write_head, if_neg (by omega)]
  have hread (i : Nat) : Memory.read (r.write cap b).mem i = if i = r.tail.toNat then b else Memory.read r.mem i := by
    rw [Ring.write_mem, Memory.read_write h.mem_wf]
  have hother : ∀ i < r.len.toNat, (r.head.toNat + i) % cap ≠ r.tail.toNat := by
    intro i hi hmeet
    rw [h.tail_eq] at hmeet
    have := Nat.ModEq.add_left_cancel' r.head.toNat hmeet
    rw [Nat.ModEq, Nat.mod_eq_of_lt (by omega), Nat.mod_eq_of_lt hroom] at this
    omega
  unfold Ring.contents
  rw [Ring.write_len_toNat hcap hroom, List.range_succ, List.map_append, hhead]
  congr 1
  · exact List.map_congr_left fun i hi => by rw [hread, if_neg (hother i (List.mem_range.mp hi))]
  · rw [List.map_singleton, hread, if_pos h.tail_eq.symm]

/-! ### The framer invariant (R187): its table -/

section
variable {f : Framer}

/-- R187's row of the states before a body: ACC is empty and no body byte is awaited. -/
theorem Framer.inFlight_iff_of_header
    (h : f.fst = .awaitingStx ∨ f.fst = .address ∨ f.fst = .lengthLow ∨ f.fst = .lengthHigh) :
    f.InFlight ↔ f.acc.len = 0 ∧ f.fRem = 0 := by
  obtain h | h | h | h := h <;> simp only [Framer.InFlight, h]

/-- R187's row of Body: ACC holds what has arrived, and at least one byte is awaited. -/
theorem Framer.inFlight_iff_of_body (h : f.fst = .body) :
    f.InFlight ↔ f.acc.len.toNat = f.fLen.toNat - f.fRem.toNat ∧
      1 ≤ f.fRem.toNat ∧ f.fRem.toNat ≤ f.fLen.toNat ∧ f.fLen.toNat ≤ 1023 := by
  simp only [Framer.InFlight, h]

/-- R187's row of the checksum states: ACC holds the whole body. -/
theorem Framer.inFlight_iff_of_checksum (h : f.fst = .checksumLow ∨ f.fst = .checksumHigh) :
    f.InFlight ↔ f.acc.len.toNat = f.fLen.toNat ∧ f.fLen.toNat ≤ 1023 ∧ f.fRem = 0 := by
  obtain h | h := h <;> simp only [Framer.InFlight, h]

/-- R187's table speaks of four fields only. -/
theorem Framer.InFlight.congr {g : Framer} (h : f.InFlight) (hfst : g.fst = f.fst) (hacc : g.acc = f.acc)
    (hLen : g.fLen = f.fLen) (hRem : g.fRem = f.fRem) : g.InFlight := by
  unfold Framer.InFlight at *
  rwa [hfst, hacc, hLen, hRem]

/-- In Body ACC holds at most 1022 bytes: a byte is still awaited of at most 1023 (R170). -/
theorem Framer.InFlight.acc_len_le (h : f.InFlight) (hbody : f.fst = .body) : f.acc.len.toNat ≤ 1022 := by
  obtain ⟨hacc, hpos, hle, hmax⟩ := (Framer.inFlight_iff_of_body hbody).mp h
  omega

end

/-! ### The rule of the framer state (R161) on each part of the invariant -/

section
variable {f : Framer} {d : Nat} {b : Byte}

/-- ACC after the rule of the state: a body byte is written, the end of a frame clears it, nothing else touches it. -/
theorem Framer.onState_acc :
    (f.onState d b).acc = f.acc ∨ (f.onState d b).acc = f.acc.clear ∨
      f.fst = .body ∧ (f.onState d b).acc = f.acc.write Config.accCap b := by
  refine Framer.onState_elim
    (P := fun g => g.acc = f.acc ∨ g.acc = f.acc.clear ∨ f.fst = .body ∧ g.acc = f.acc.write Config.accCap b)
    ?stx ?noise ?addr ?low ?oversized ?zero ?start ?body ?cklow ?valid ?fail
  case stx | noise | addr | low | zero | start | cklow => intros; exact .inl rfl
  case oversized => intros; exact .inr (.inl rfl)
  case body => intro h; exact .inr (.inr ⟨h, rfl⟩)
  case valid => intros; exact .inr (.inl (by simp [Framer.validPacket]))
  case fail => intros; exact .inr (.inl rfl)

/-- In Body the byte is written to ACC (R171). -/
theorem Framer.onState_acc_of_body (h : f.fst = .body) : (f.onState d b).acc = f.acc.write Config.accCap b := by
  rw [Framer.onState_body h]; rfl

/-- The rule of the state keeps R120 for ACC. -/
theorem Framer.onState_acc_inv (h : f.acc.Inv Config.accCap) : (f.onState d b).acc.Inv Config.accCap := by
  obtain hacc | hacc | ⟨-, hacc⟩ := Framer.onState_acc (f := f) (d := d) (b := b) <;> rw [hacc]
  · exact h
  · exact h.clear (by decide)
  · exact h.write (by decide) (by decide) b

/-- In Body one byte fewer is awaited and one more is in ACC; the last one ends the body (R171). -/
theorem Framer.inFlight_onBody (hbody : f.fst = .body) (h : f.InFlight) : (f.onBody b).InFlight := by
  have hroom := h.acc_len_le hbody
  obtain ⟨hacc, hpos, hle, hmax⟩ := (Framer.inFlight_iff_of_body hbody).mp h
  have hlen : (f.onBody b).acc.len.toNat = f.acc.len.toNat + 1 :=
    Ring.write_len_toNat (by decide) (by simp only [Config.accCap]; omega) b
  have hLen : (f.onBody b).fLen = f.fLen := rfl
  have hRem : (f.onBody b).fRem = f.fRem - 1 := rfl
  have hsub : (f.fRem - 1).toNat = f.fRem.toNat - 1 := by bv_omega
  by_cases hlast : f.fRem - 1 = 0
  · have hfst : (f.onBody b).fst = .checksumLow := if_pos hlast
    have hone : f.fRem.toNat - 1 = 0 := hsub.symm.trans (congrArg BitVec.toNat hlast)
    rw [Framer.inFlight_iff_of_checksum (.inl hfst), hlen, hLen, hRem]
    exact ⟨by omega, hmax, hlast⟩
  · have hfst : (f.onBody b).fst = .body := if_neg hlast
    have hne : (f.fRem - 1).toNat ≠ 0 := by simpa [← BitVec.toNat_inj] using hlast
    rw [Framer.inFlight_iff_of_body hfst, hlen, hLen, hRem]
    omega

/-- The rule of the state keeps R187's table. -/
theorem Framer.onState_inFlight (h : f.InFlight) : (f.onState d b).InFlight := by
  refine Framer.onState_elim (P := Framer.InFlight)
    ?stx ?noise ?addr ?low ?oversized ?zero ?start ?body ?cklow ?valid ?fail
  case stx => intro hf _; exact (Framer.inFlight_iff_of_header (.inl hf)).mp h
  case noise => intro hf _; exact h.congr rfl rfl rfl rfl
  case addr => intro hf; exact (Framer.inFlight_iff_of_header (.inr (.inl hf))).mp h
  case low => intro hf; exact (Framer.inFlight_iff_of_header (.inr (.inr (.inl hf)))).mp h
  case oversized =>
    intro hf _
    exact ⟨rfl, ((Framer.inFlight_iff_of_header (.inr (.inr (.inr hf)))).mp h).2⟩
  case zero =>
    intro hf _
    obtain ⟨hacc, hrem⟩ := (Framer.inFlight_iff_of_header (.inr (.inr (.inr hf)))).mp h
    have hempty : f.acc.len.toNat = 0 := congrArg BitVec.toNat hacc
    exact (Framer.inFlight_iff_of_checksum (.inl rfl)).mpr ⟨hempty, Nat.zero_le _, hrem⟩
  case start =>
    intro hf hmax hne
    obtain ⟨hacc, -⟩ := (Framer.inFlight_iff_of_header (.inr (.inr (.inr hf)))).mp h
    have hpos : (joinBytes b f.fLenLo).toNat ≠ 0 := by simpa [← BitVec.toNat_inj] using hne
    have hempty : f.acc.len.toNat = 0 := congrArg BitVec.toNat hacc
    refine (Framer.inFlight_iff_of_body rfl).mpr ⟨?_, Nat.pos_of_ne_zero hpos, Nat.le_refl _, Nat.le_of_lt_succ hmax⟩
    exact hempty.trans (Nat.sub_self _).symm
  case body => intro hf; exact Framer.inFlight_onBody hf h
  case cklow => intro hf; exact (Framer.inFlight_iff_of_checksum (.inl hf)).mp h
  case valid =>
    intro hf _
    obtain ⟨-, -, hrem⟩ := (Framer.inFlight_iff_of_checksum (.inr hf)).mp h
    exact ⟨rfl, by simp [Framer.validPacket, hrem]⟩
  case fail =>
    intro hf _
    obtain ⟨-, -, hrem⟩ := (Framer.inFlight_iff_of_checksum (.inr hf)).mp h
    exact ⟨rfl, hrem⟩

/-- No rule of a state touches the byte count, which is R162's. -/
theorem Framer.onState_totalBytesSeen : (f.onState d b).totalBytesSeen = f.totalBytesSeen := by
  refine Framer.onState_elim (P := fun g => g.totalBytesSeen = f.totalBytesSeen)
    ?stx ?noise ?addr ?low ?oversized ?zero ?start ?body ?cklow ?valid ?fail
  case valid => intros; simp [Framer.validPacket]
  all_goals intros; rfl

/-- Only a byte other than `STX` in AwaitingStx is noise (R163). -/
theorem Framer.onState_droppedBytes :
    (f.onState d b).droppedBytes =
      if f.fst = .awaitingStx ∧ b ≠ Config.stx then f.droppedBytes + 1 else f.droppedBytes := by
  refine Framer.onState_elim (P := fun g => g.droppedBytes =
      if f.fst = .awaitingStx ∧ b ≠ Config.stx then f.droppedBytes + 1 else f.droppedBytes)
    ?stx ?noise ?addr ?low ?oversized ?zero ?start ?body ?cklow ?valid ?fail
  case stx => intro _ hb; rw [if_neg (fun hn => hn.2 hb)]
  case noise => intro hf hb; rw [if_pos ⟨hf, hb⟩]
  case valid => intro hf _; simp [Framer.validPacket, hf]
  all_goals intro hf; intros; exact (if_neg (by simp [hf])).symm

/-- The queue after the rule of the state: only a valid packet is put in it (R174). -/
theorem Framer.onState_pq :
    (f.onState d b).pq =
      if f.fst = .checksumHigh ∧ f.fCrc = joinBytes b f.fCkLo then (f.enqueue d (f.packet (joinBytes b f.fCkLo))).pq
      else f.pq := by
  refine Framer.onState_elim (P := fun g => g.pq =
      if f.fst = .checksumHigh ∧ f.fCrc = joinBytes b f.fCkLo then (f.enqueue d (f.packet (joinBytes b f.fCkLo))).pq
      else f.pq)
    ?stx ?noise ?addr ?low ?oversized ?zero ?start ?body ?cklow ?valid ?fail
  case valid => intro hf hc; rw [if_pos ⟨hf, hc⟩]; rfl
  case fail => intro _ hc; rw [if_neg (fun hn => hc hn.2)]; rfl
  all_goals intro hf; intros; exact (if_neg (by simp [hf])).symm

end

/-! ### The framer invariant, kept by the framer's operations -/

section
variable {f : Framer} {d : Nat}

/-- A full queue gives up its oldest packet for the new one (R181). -/
theorem Framer.enqueue_pq_length_le (hd : 1 ≤ d) (h : f.pq.length ≤ d) (p : Packet) :
    (f.enqueue d p).pq.length ≤ d := by
  rw [Framer.enqueue_pq]
  split
  · next hfull => rw [List.length_append, List.length_drop, List.length_singleton]; omega
  · next hroom => rw [List.length_append, List.length_singleton]; omega

/-- The rule of the state keeps the queue within `PQ_DEPTH`. -/
theorem Framer.onState_pq_length_le (hd : 1 ≤ d) (h : f.pq.length ≤ d) (b : Byte) :
    (f.onState d b).pq.length ≤ d := by
  rw [Framer.onState_pq]
  split
  · exact Framer.enqueue_pq_length_le hd h _
  · exact h

/-- The rule of the state drops at most the byte that was just counted. -/
theorem Framer.count_onState_dropped_le (hdrop : f.droppedBytes.toNat ≤ f.totalBytesSeen.toNat)
    (htotal : f.totalBytesSeen.toNat ≤ 0x10000) (b : Byte) :
    (f.count.onState d b).droppedBytes.toNat ≤ (f.count.onState d b).totalBytesSeen.toNat ∧
      (f.count.onState d b).totalBytesSeen.toNat ≤ 0x10001 := by
  have htot : (f.totalBytesSeen + 1).toNat = f.totalBytesSeen.toNat + 1 := Counter.toNat_add_one (by omega)
  have hdro : (f.droppedBytes + 1).toNat = f.droppedBytes.toNat + 1 := Counter.toNat_add_one (by omega)
  rw [Framer.onState_totalBytesSeen, Framer.onState_droppedBytes, Framer.count_totalBytesSeen, htot,
    Framer.count_droppedBytes]
  refine ⟨?_, by omega⟩
  split
  · rw [hdro]; omega
  · omega

/-- The decay brings a byte count just past the limit below it, and keeps the order of the two counts (R177). -/
theorem Framer.decay_dropped_le (hdrop : f.droppedBytes.toNat ≤ f.totalBytesSeen.toNat)
    (htotal : f.totalBytesSeen.toNat ≤ 0x10001) :
    f.decay.droppedBytes.toNat ≤ f.decay.totalBytesSeen.toNat ∧ f.decay.totalBytesSeen.toNat ≤ 0x10000 := by
  rw [Framer.decay_totalBytesSeen, Framer.decay_droppedBytes]
  by_cases hover : f.totalBytesSeen.toNat > Config.decayLimit
  · rw [if_pos hover, if_pos hover, decayed_toNat, decayed_toNat]
    omega
  · rw [if_neg hover, if_neg hover]
    exact ⟨hdrop, Nat.not_lt.mp hover⟩

/-- FR_FEED keeps R187 (R161). -/
theorem Framer.Inv.feed (hd : 1 ≤ d) (h : f.Inv d) (b : Byte) : (f.feed d b).Inv d := by
  have hflight : (f.count.onState d b).InFlight := Framer.onState_inFlight (h.inFlight.congr rfl rfl rfl rfl)
  obtain ⟨hdrop, htotal⟩ := Framer.count_onState_dropped_le (d := d) h.dropped_le h.total_le b
  obtain ⟨hdrop', htotal'⟩ := Framer.decay_dropped_le hdrop htotal
  refine ⟨?_, ?_, hdrop', htotal', ?_⟩ <;> unfold Framer.feed
  · rw [Framer.decay_acc]; exact Framer.onState_acc_inv (f := f.count) h.acc_inv
  · exact hflight.congr (by simp) (by simp) (by simp) (by simp)
  · rw [Framer.decay_pq]; exact Framer.onState_pq_length_le (f := f.count) hd h.pq_le b

/-- FR_RST puts the framer in its invariant, given the storage of ACC is in order (R186). -/
theorem Framer.Inv.clear (h : f.Inv d) : f.clear.Inv d :=
  ⟨h.acc_inv.clear (by decide), ⟨rfl, rfl⟩, Nat.zero_le _, Nat.zero_le _, Nat.zero_le _⟩

/-- FR_POP only shortens the queue (R183). -/
theorem Framer.Inv.pop {p : Packet} {rest : List Packet} (h : f.Inv d) (hpq : f.pq = p :: rest) :
    ({ f with pq := rest } : Framer).Inv d := by
  refine ⟨h.acc_inv, h.inFlight.congr rfl rfl rfl rfl, h.dropped_le, h.total_le, ?_⟩
  have hle := h.pq_le
  rw [hpq, List.length_cons] at hle
  exact Nat.le_of_succ_le hle

/-- The reset value of the framer meets R187 (R221). -/
theorem Framer.reset_inv (d : Nat) : Framer.reset.Inv d :=
  ⟨Ring.reset_inv (by decide), ⟨rfl, rfl⟩, Nat.le_refl 0, Nat.zero_le _, Nat.zero_le _⟩

end

/-! ### What an operation can do -/

/-- Everything an operation of R74 can do to a state, one case for each way in which it changes the block. -/
inductive OpEffect (s : State) : Instr → State → Prop where
  /-- A response, and no change of the block: NOP, the operations that only read, an empty FR_POP, an error. -/
  | answer {i : Instr} (r : Response) : OpEffect s i (s.addResponse r)
  /-- CRC_CLR and CRC_UPD (R105, R106). -/
  | crcu {i : Instr} (hunit : unitOf i = .crcu) (c : Crcu) : OpEffect s i (respond .none (s.withCrcu c))
  /-- RB_CLR (R125). -/
  | rbClr : OpEffect s .rbClr (respond .none (s.withRbx s.rbx.clear))
  /-- RB_WR (R126). -/
  | rbWr (b : Byte) : OpEffect s (.rbWr b) (respond .none (s.withRbx (s.rbx.write s.params.rbxCap b)))
  /-- RB_RD (R127). -/
  | rbRd (v : RspVal) : OpEffect s .rbRd (respond v (s.withRbx (s.rbx.read s.params.rbxCap).2.2))
  /-- FR_RST (R186). -/
  | frRst : OpEffect s .frRst (respond .none (s.withFr s.fr.clear))
  /-- FR_FEED (R161). -/
  | frFeed (b : Byte) : OpEffect s (.frFeed b) (respond .none (s.withFr (s.fr.feed s.params.pqDepth b)))
  /-- FR_POP with a packet waiting (R183). -/
  | frPop (p : Packet) (rest : List Packet) (hpq : s.fr.pq = p :: rest) :
    OpEffect s .frPop (respond (.pkt (some p)) (s.withFr { s.fr with pq := rest }))

section
variable {s : State}

/-- FR_POP answers none and changes nothing, or takes the oldest packet (R183). -/
theorem execFrPop_effect {t : State} (h : execFrPop s = .next t) : OpEffect s .frPop t := by
  unfold execFrPop at h
  split at h
  · cases h; exact .answer _
  · next p rest hpq => cases h; exact .frPop p rest hpq

/-- FR_STAT only answers, for a named selector and for a reserved one (R185). -/
theorem execFrStat_effect {t : State} {sel : Byte} (h : execFrStat sel s = .next t) : OpEffect s (.frStat sel) t := by
  unfold execFrStat at h
  split at h <;> cases h <;> exact .answer _

/-- ENC only answers, for a body of any length (R145). -/
theorem execEnc_effect {t : State} {a : Byte} {body : List Byte} (h : execEnc a body s = .next t) :
    OpEffect s (.enc a body) t := by
  unfold execEnc at h
  split at h <;> cases h <;> exact .answer _

/-- Every next state of an operation comes from one of its effects. -/
theorem exec_effect {t : State} {i : Instr} (h : exec i s = .next t) : OpEffect s i t := by
  cases i with
  | nop | crcRd | rbLen | frHas => cases h; exact .answer _
  | crcClr | crcUpd => cases h; exact .crcu rfl _
  | rbClr => cases h; exact .rbClr
  | rbWr b => cases h; exact .rbWr b
  | rbRd => cases h; exact .rbRd _
  | frRst => cases h; exact .frRst
  | frFeed b => cases h; exact .frFeed b
  | frPop => exact execFrPop_effect h
  | frStat sel => exact execFrStat_effect h
  | enc a body => exact execEnc_effect h

end

/-! ### The structural invariant (R10, R120, R187), under each update of the state -/

section
variable {s : State}

theorem State.Inv.addResponse (h : s.Inv) (r : Response) : (s.addResponse r).Inv :=
  ⟨h.params_ok, h.rbx_inv, h.fr_inv⟩

theorem State.Inv.respond (h : s.Inv) (v : RspVal) : (respond v s).Inv := h.addResponse _

theorem State.Inv.respondErr (h : s.Inv) : (respondErr s).Inv := h.addResponse _

theorem State.Inv.withPending (h : s.Inv) (es : List PortEvent) : (s.withPending es).Inv :=
  ⟨h.params_ok, h.rbx_inv, h.fr_inv⟩

theorem State.Inv.withCrcu (h : s.Inv) (c : Crcu) : (s.withCrcu c).Inv := ⟨h.params_ok, h.rbx_inv, h.fr_inv⟩

theorem State.Inv.withRbx (h : s.Inv) {r : Ring} (hr : r.Inv s.params.rbxCap) : (s.withRbx r).Inv :=
  ⟨h.params_ok, hr, h.fr_inv⟩

theorem State.Inv.withFr (h : s.Inv) {f : Framer} (hf : f.Inv s.params.pqDepth) : (s.withFr f).Inv :=
  ⟨h.params_ok, h.rbx_inv, hf⟩

/-- Every unit at its reset value meets the invariant, whatever the parameters in range (R221). -/
theorem State.inv_of_reset_units (hp : s.params.Ok) (hr : s.rbx = Ring.reset) (hf : s.fr = Framer.reset) : s.Inv :=
  ⟨hp, hr ▸ Ring.reset_inv hp.rbxCap_pos, hf ▸ Framer.reset_inv _⟩

theorem State.Inv.blockReset (h : s.Inv) : (blockReset s).Inv := State.inv_of_reset_units h.params_ok rfl rfl

/-- Every operation keeps the invariant: each of its effects does. -/
theorem exec_keeps_inv {t : State} {i : Instr} (h : s.Inv) (hexec : exec i s = .next t) : t.Inv := by
  obtain ⟨hdepth, hcap1, hcap⟩ := h.params_ok
  cases exec_effect hexec with
  | answer r => exact h.addResponse r
  | crcu _ c => exact (h.withCrcu c).respond _
  | rbClr => exact (h.withRbx (h.rbx_inv.clear hcap1)).respond _
  | rbWr b => exact (h.withRbx (h.rbx_inv.write hcap1 hcap b)).respond _
  | rbRd v => exact (h.withRbx (h.rbx_inv.read hcap1 hcap)).respond v
  | frRst => exact (h.withFr h.fr_inv.clear).respond _
  | frFeed b => exact (h.withFr (h.fr_inv.feed hdepth b)).respond _
  | frPop p rest hpq => exact (h.withFr (h.fr_inv.pop hpq)).respond _

/-- Every step keeps the invariant. -/
theorem step_keeps_inv {t : State} (h : s.Inv) (hstep : step s = .next t) : t.Inv := by
  obtain ⟨-, rfl⟩ | ⟨es, -, rfl⟩ | ⟨o, es, why, -, -, rfl⟩ | ⟨o, es, i, -, -, hexec⟩ := step_cases hstep
  · exact h
  · exact (h.withPending es).blockReset
  · exact (h.withPending es).respondErr
  · exact exec_keeps_inv (h.withPending es) hexec

end

/-- Settles O43: each of the four things a step can be (idle, the reset event, an error response, an operation)
keeps the invariant. -/
theorem stepKeepsTheInvariant : Obligations.StepKeepsTheInvariant := by
  unfold Obligations.StepKeepsTheInvariant
  exact fun _ _ h hstep => step_keeps_inv h hstep

/-! ### The accumulator in Body (R11, R170) -/

/-- A byte fed in Body is written to ACC: neither the count nor the decay touches it (R161, R171). -/
theorem Framer.feed_acc_of_body {f : Framer} (d : Nat) (b : Byte) (hbody : f.fst = .body) :
    (f.feed d b).acc = f.acc.write Config.accCap b := by
  rw [Framer.feed, Framer.decay_acc, Framer.onState_acc_of_body (f := f.count) hbody, Framer.count_acc]

/-- Settles O47: in Body R187 leaves ACC at least two free slots, so the write of the byte appends it. -/
theorem accNeverOverflows : Obligations.AccNeverOverflows := by
  unfold Obligations.AccNeverOverflows
  intro b s h hbody
  have hle : s.fr.acc.len.toNat ≤ 1022 := h.fr_inv.inFlight.acc_len_le hbody
  have hacc : (s.fr.feed s.params.pqDepth b).acc = s.fr.acc.write 1024 b := Framer.feed_acc_of_body _ b hbody
  have hroom : s.fr.acc.len.toNat < 1024 := by omega
  refine ⟨hroom, _, rfl, ?_, ?_⟩ <;> rw [respond_fr, State.withFr_fr, hacc]
  · exact Ring.contents_write_of_room (by decide) h.fr_inv.acc_inv hroom b
  · rw [Ring.write_len_toNat (by decide) hroom]
    omega

/-! ### The state after reset -/

/-- The reference parameters are in R10's ranges. -/
theorem referenceParams_ok : Config.Params.reference.Ok := ⟨by decide, by decide, by decide⟩

/-- Settles O46: at reset the rings and the queue are empty and no frame is in flight. -/
theorem resetMeetsTheInvariants : Obligations.ResetMeetsTheInvariants := by
  unfold Obligations.ResetMeetsTheInvariants
  have hqueue (p : Config.Params) : (State.resetWith p).QueueGood := fun _ hq => absurd hq List.not_mem_nil
  exact ⟨fun p hp => ⟨State.inv_of_reset_units hp rfl rfl, trivial, hqueue p⟩, rfl, referenceParams_ok⟩

end Sys2Proof.Machine
end

section
namespace Sys2Proof.Machine

/-! ### The decoder on an encoded operation (R71, R74, R75) -/

/-- The operation code, the argument and the payload of an operation select it again (R74). -/
theorem select_fields (i : Instr) : select i.opcode i.argument i.payload = some i := by cases i <;> rfl

/-- Only ENC has a payload (R73). -/
theorem Instr.payload_eq_nil {i : Instr} (h : i.opcode ≠ encOpcode) : i.payload = [] := by
  cases i with
  | enc => exact absurd rfl h
  | _ => rfl

/-- An operation whose code takes no argument has the argument field zero (R71, R75). -/
theorem Instr.argument_eq_zero {i : Instr} (h : i.opcode ∈ noArgOpcodes) : i.argument = 0x00 := by
  cases i with
  | crcUpd | rbWr | frFeed | frStat | enc => simp [Instr.opcode, noArgOpcodes] at h
  | _ => rfl

/-- An encoded operation is on none of R75's reserved lines. -/
theorem decode_encode (i : Instr) : decode (encode i) = .op i := by
  obtain ⟨hopc, harg, hpayload⟩ := Laws.Fields.of_encode i
  have hform : ¬(i.opcode ≠ encOpcode ∧ i.payload ≠ []) := fun h => h.2 (Instr.payload_eq_nil h.1)
  have hzero : ¬(i.opcode ∈ noArgOpcodes ∧ i.argument ≠ 0x00) := fun h => h.2 (Instr.argument_eq_zero h.1)
  simp only [decode, hopc, harg, hpayload, select_fields, if_neg hform, if_neg hzero]

/-! ### One step with a transaction pending (R59, R196) -/

/-- A step whose next transaction decodes to an operation is that operation's `exec` (R196). -/
theorem step_of_decode {s : State} {o : Op} {es : List PortEvent} {i : Instr} (hp : s.pending = .op o :: es)
    (hd : decode o = .op i) : step s = exec i (s.withPending es) := by
  simp only [step, hp, execute, hd]

/-- Settles O5: taking the transaction off the port is the model's `withPending`. -/
theorem stepPerformsTheDecodedOperation : Obligations.StepPerformsTheDecodedOperation := by
  unfold Obligations.StepPerformsTheDecodedOperation
  exact fun _ _ _ _ hp hd => step_of_decode hp hd

theorem State.withPending_eq_self {s : State} {es : List PortEvent} (h : s.pending = es) : s.withPending es = s := by
  cases h; rfl

/-! ### Operations in any state: they answer, and do not read the command port -/

/-- Every operation answers a next state (R199), and the same one whatever is still pending (log 1). -/
theorem exec_next_withPending (i : Instr) (s : State) :
    ∃ t, exec i s = .next t ∧ ∀ es, exec i (s.withPending es) = .next (t.withPending es) := by
  cases i with
  | frPop =>
    simp only [exec, execFrPop, State.withPending_fr]
    split <;> exact ⟨_, rfl, fun _ => rfl⟩
  | frStat =>
    simp only [exec, execFrStat]
    split <;> exact ⟨_, rfl, fun _ => rfl⟩
  | enc =>
    simp only [exec, execEnc]
    split <;> exact ⟨_, rfl, fun _ => rfl⟩
  | _ => exact ⟨_, rfl, fun _ => rfl⟩

/-! ### The run of an encoded program (R229) -/

/-- A run goes on from the next state of its first step. -/
theorem run_succ_of_step {s t : State} (h : step s = .next t) (n : Nat) : core.run (n + 1) s = core.run n t := by
  have hcore : core.step s = .next t := h
  simp only [Host.Core.run, hcore]

/-- An operation goes on with the ones issued after it from its next state. -/
theorem execAll_cons_of_exec {s t : State} {i : Instr} (h : exec i s = .next t) (is : List Instr) :
    execAll (i :: is) s = execAll is t := by
  rw [execAll, h]

/-- The run of an encoded program performs its operations one after another, with nothing else pending. -/
theorem runProgram_assembledOps (is : List Instr) (s : State) :
    runProgram (assembledOps is) s = execAll is (s.withPending []) := by
  induction is generalizing s with
  | nil => rfl
  | cons i is ih =>
    obtain ⟨t, -, hexec⟩ := exec_next_withPending i s
    have hstep : step (s.withPending ((assembledOps (i :: is)).map .op)) =
        .next (t.withPending ((assembledOps is).map .op)) :=
      (step_of_decode rfl (decode_encode i)).trans (hexec _)
    calc runProgram (assembledOps (i :: is)) s
      _ = runProgram (assembledOps is) t := run_succ_of_step hstep _
      _ = execAll is (t.withPending []) := ih t
      _ = execAll (i :: is) (s.withPending []) := (execAll_cons_of_exec (hexec []) is).symm

/-- Settles O12: with nothing pending, emptying the port first is no change. -/
theorem runPerformsOperationsInIssueOrder : Obligations.RunPerformsOperationsInIssueOrder := by
  unfold Obligations.RunPerformsOperationsInIssueOrder
  intro is s hs
  rw [runProgram_assembledOps, State.withPending_eq_self hs]

/-! ### The frame of an operation (R197) -/

section
variable {s t : State} {i : Instr}

theorem OpEffect.params_eq (he : OpEffect s i t) : t.params = s.params := by cases he <;> rfl

theorem OpEffect.pending_eq (he : OpEffect s i t) : t.pending = s.pending := by cases he <;> rfl

theorem OpEffect.crcu_eq (he : OpEffect s i t) (hu : unitOf i ≠ .crcu) : t.crcu = s.crcu := by
  cases he with
  | crcu hunit => exact absurd hunit hu
  | _ => rfl

theorem OpEffect.rbx_eq (he : OpEffect s i t) (hu : unitOf i ≠ .rbx ∨ i = .rbLen) : t.rbx = s.rbx := by
  cases he with
  | rbClr | rbWr | rbRd => simp [unitOf] at hu
  | _ => rfl

theorem OpEffect.fr_eq (he : OpEffect s i t) (hu : unitOf i ≠ .fr ∨ i = .frHas ∨ ∃ sel, i = .frStat sel) :
    t.fr = s.fr := by
  cases he with
  | frRst | frFeed | frPop => simp [unitOf] at hu
  | _ => rfl

/-- FR_POP writes nothing of the framer but its queue (R183). -/
theorem OpEffect.fr_eq_of_frPop (he : OpEffect s .frPop t) : t.fr = { s.fr with pq := t.fr.pq } := by
  cases he with
  | crcu hunit => cases hunit
  | _ => rfl

/-- CRC_RD only answers (R107). -/
theorem exec_crcRd_crcu (h : exec .crcRd s = .next t) : t.crcu = s.crcu := by cases h; rfl

end

/-- Settles O51: each effect of an operation writes one unit at most, and that unit is the operation's own. -/
theorem operationsWriteOnlyTheirUnit : Obligations.OperationsWriteOnlyTheirUnit := by
  unfold Obligations.OperationsWriteOnlyTheirUnit
  intro i s
  obtain ⟨t, ht, -⟩ := exec_next_withPending i s
  have he : OpEffect s i t := exec_effect ht
  refine ⟨t, ht, he.params_eq, he.pending_eq, ?_, he.rbx_eq, he.fr_eq, ?_⟩
  · rintro (hu | rfl)
    · exact he.crcu_eq hu
    · exact exec_crcRd_crcu ht
  · rintro rfl
    exact he.fr_eq_of_frPop

end Sys2Proof.Machine
end

section
namespace Sys2Proof.Machine

/-! ### The decoder on any transaction (R71, R74, R75, R78) -/

/-- Settles O1: an encoded operation is on none of R75's reserved lines. -/
theorem decodeOfEncodeIsTheOperation : Obligations.DecodeOfEncodeIsTheOperation := by
  unfold Obligations.DecodeOfEncodeIsTheOperation
  exact decode_encode

/-- A word is its operation code followed by its argument (R71). -/
theorem opc_append_arg (o : Op) : o.opc ++ o.arg = o.word := by
  ext k hk
  simp only [Op.opc, Op.arg, BitVec.getElem_append, BitVec.getElem_extractLsb']
  split
  · simp [BitVec.getLsbD_eq_getElem hk]
  · next hlow => rw [Nat.add_sub_of_le (Nat.not_lt.mp hlow), BitVec.getLsbD_eq_getElem hk]

/-- The operation codes that select no operation are the ones R74 does not list. -/
theorem select_eq_none_iff {c : BitVec 8} {a : Byte} {l : List Byte} : select c a l = none ↔ c ∉ listedOpcodes := by
  unfold select
  split <;> simp_all [listedOpcodes]

/-- The row of R74 that an operation code selects: an operation of that code, with the argument as its byte operand
where it has one, and the payload as its body where it is ENC. -/
theorem fields_of_select {c : BitVec 8} {a : Byte} {l : List Byte} {i : Instr} (h : select c a l = some i) :
    i.opcode = c ∧ (c ∉ noArgOpcodes → i.argument = a) ∧ (c = encOpcode → i.payload = l) := by
  unfold select at h
  split at h <;> cases h <;> simp [Instr.opcode, Instr.argument, Instr.payload, noArgOpcodes, encOpcode]

/-- A payload on an operation other than ENC (the second line of R78). -/
def MisplacedPayload (o : Op) : Prop := o.opc ≠ encOpcode ∧ o.payload ≠ []

/-- A non-zero argument on an operation that takes none (the third line of R78). -/
def MisplacedArgument (o : Op) : Prop := o.opc ∈ noArgOpcodes ∧ o.arg ≠ 0x00

/-- Everything the decoder can answer, by the step of R75 that decides. -/
theorem decode_cases (o : Op) :
    (o.opc ∉ listedOpcodes ∧ decode o = .reserved .opcode) ∨
    (o.opc ∈ listedOpcodes ∧ MisplacedPayload o ∧ decode o = .reserved .payload) ∨
    (o.opc ∈ listedOpcodes ∧ ¬ MisplacedPayload o ∧ MisplacedArgument o ∧ decode o = .reserved .argument) ∨
    (o.opc ∈ listedOpcodes ∧ ¬ MisplacedPayload o ∧ ¬ MisplacedArgument o ∧
      ∃ i, select o.opc o.arg o.payload = some i ∧ decode o = .op i) := by
  unfold decode
  cases hsel : select o.opc o.arg o.payload with
  | none => exact .inl ⟨select_eq_none_iff.mp hsel, rfl⟩
  | some i =>
    have hlisted : o.opc ∈ listedOpcodes :=
      Decidable.of_not_not (mt select_eq_none_iff.mpr (hsel ▸ Option.some_ne_none i))
    dsimp only
    split
    · next hpay => exact .inr (.inl ⟨hlisted, hpay, rfl⟩)
    · next hpay =>
      split
      · next harg => exact .inr (.inr (.inl ⟨hlisted, hpay, harg, rfl⟩))
      · next harg => exact .inr (.inr (.inr ⟨hlisted, hpay, harg, i, rfl, rfl⟩))

/-- The fields of a transaction that decodes select its operation, and none is misplaced. -/
theorem select_of_decode {o : Op} {i : Instr} (h : decode o = .op i) :
    select o.opc o.arg o.payload = some i ∧ ¬ MisplacedPayload o ∧ ¬ MisplacedArgument o := by
  obtain ⟨-, hd⟩ | ⟨-, -, hd⟩ | ⟨-, -, -, hd⟩ | ⟨-, hpay, harg, j, hsel, hd⟩ := decode_cases o
  case inr.inr.inr =>
    cases hd.symm.trans h
    exact ⟨hsel, hpay, harg⟩
  all_goals cases hd.symm.trans h

/-- The fields of a transaction that decodes are those of its operation: an argument or a payload that the operation
does not take is zero or empty. -/
theorem fields_of_decode {o : Op} {i : Instr} (h : decode o = .op i) :
    i.opcode = o.opc ∧ i.argument = o.arg ∧ i.payload = o.payload := by
  obtain ⟨hsel, hpay, harg⟩ := select_of_decode h
  obtain ⟨hopc, harg', hpay'⟩ := fields_of_select hsel
  refine ⟨hopc, ?_, ?_⟩
  · by_cases hc : o.opc ∈ noArgOpcodes
    · have hzero : o.arg = 0x00 := Decidable.of_not_not fun hne => harg ⟨hc, hne⟩
      rw [hzero, Instr.argument_eq_zero (hopc ▸ hc)]
    · exact harg' hc
  · by_cases hc : o.opc = encOpcode
    · exact hpay' hc
    · have hnil : o.payload = [] := Decidable.of_not_not fun hne => hpay ⟨hc, hne⟩
      rw [hnil, Instr.payload_eq_nil (hopc ▸ hc)]

/-- Settles O2: the fields agree, and they are all of the word and of the payload. -/
theorem encodeOfDecodedIsTheTransaction : Obligations.EncodeOfDecodedIsTheTransaction := by
  unfold Obligations.EncodeOfDecodedIsTheTransaction
  intro o i h
  obtain ⟨hopc, harg, hpay⟩ := fields_of_decode h
  rw [encode, hopc, harg, hpay, opc_append_arg]

/-- Settles O3: the four answers of the decoder, each under its own condition, and the conditions exclude one
another. -/
theorem reservedExactlyAsListed : Obligations.ReservedExactlyAsListed := by
  unfold Obligations.ReservedExactlyAsListed
  intro o
  change (decode o = .reserved .opcode ↔ o.opc ∉ listedOpcodes) ∧
    (decode o = .reserved .payload ↔ o.opc ∈ listedOpcodes ∧ MisplacedPayload o) ∧
    (decode o = .reserved .argument ↔ o.opc ∈ listedOpcodes ∧ ¬ MisplacedPayload o ∧ MisplacedArgument o) ∧
    ((∃ i, decode o = .op i) ↔ o.opc ∈ listedOpcodes ∧ ¬ MisplacedPayload o ∧ ¬ MisplacedArgument o)
  obtain ⟨hl, hd⟩ | ⟨hl, hpay, hd⟩ | ⟨hl, hpay, harg, hd⟩ | ⟨hl, hpay, harg, i, -, hd⟩ := decode_cases o
  · simp [hd, hl]
  · simp [hd, hl, hpay]
  · simp [hd, hl, hpay, harg]
  · simp [hd, hl, hpay, harg]

/-- Settles O4: each word is the encoding of its operation, bit for bit. -/
theorem opcodeMapWordsDecode : Obligations.OpcodeMapWordsDecode := by
  unfold Obligations.OpcodeMapWordsDecode
  exact ⟨decode_encode .nop, decode_encode .crcClr, decode_encode (.crcUpd 0x31), decode_encode (.rbWr 0xC1),
    decode_encode .rbRd, decode_encode (.frFeed 0x02), decode_encode (.frStat 0x04),
    decode_encode (.enc 0x05 [0x31])⟩

/-! ### One step: a reserved transaction, and a word issued first (R78, R80, R196) -/

/-- A step whose next transaction is reserved gives the error response (R196). -/
theorem step_of_reserved {s : State} {o : Op} {es : List PortEvent} {why : Reserved} (hp : s.pending = .op o :: es)
    (hd : decode o = .reserved why) : step s = .next (respondErr (s.withPending es)) := by
  simp only [step, hp, execute, hd, execReserved]

/-- Settles O6: the error response is the model's `respondErr`, for each of the three reasons. -/
theorem reservedOperationGivesErrorResponse : Obligations.ReservedOperationGivesErrorResponse := by
  unfold Obligations.ReservedOperationGivesErrorResponse
  exact fun _ _ _ _ hp hd => step_of_reserved hp hd

/-- A 16-bit word of the opcode table decodes as its transaction with an empty payload (R80, log 13). -/
theorem decode_tableOp {w : Nat} {i : Instr} (h : decodeTableWord 16 w = some i) : decode (tableOp 16 w) = .op i := by
  rw [decodeTableWord, if_pos le_rfl] at h
  split at h
  · next hd => cases h; exact hd
  · cases h

/-- Settles O13: the word's transaction is the next one pending, and taking it off again gives the state it was
issued in. -/
theorem fetchWordIsPerformedNext : Obligations.FetchWordIsPerformedNext := by
  unfold Obligations.FetchWordIsPerformedNext
  intro s w i h
  calc step (s.withFetchWord 16 w)
    _ = exec i ((issueFirst (tableOp 16 w) s).withPending s.pending) := step_of_decode rfl (decode_tableOp h)
    _ = exec i s := by rw [issueFirst_withPending]

/-! ### The response of an operation (R76, R77) -/

/-- The kind of value the table of R76 gives an operation's response. -/
def AnswerKind (i : Instr) (v : RspVal) : Prop :=
  match i with
  | .nop | .crcClr | .crcUpd _ => v = .none
  | .crcRd => ∃ c, v = .u16 c
  | .rbClr | .rbWr _ => v = .none
  | .rbRd => ∃ valid d, v = .byte valid d
  | .rbLen => ∃ n, v = .u32 n
  | .frRst | .frFeed _ => v = .none
  | .frHas => ∃ b, v = .bool b
  | .frPop => ∃ p, v = .pkt p
  | .frStat _ => ∃ n, v = .u32 n
  | .enc _ _ => ∃ l, v = .frame l

/-- A selector names no status register exactly when the check of FR_STAT's operand refuses it (R32, R185). -/
theorem statReg_eq_none_iff (sel : Byte) : statReg sel = none ↔ selectorOk sel = false := by
  revert sel; decide

/-- An operand that its rule does not accept is a reserved selector (R185) or a body too long for a frame (R145). -/
theorem wellFormed_eq_false_iff {i : Instr} :
    i.wellFormed = false ↔
      (∃ sel, i = .frStat sel ∧ 7 ≤ sel.toNat) ∨ (∃ a body, i = .enc a body ∧ 1023 < body.length) := by
  cases i <;> simp [Instr.wellFormed, selectorOk, bodyOk]

section
variable {s : State} {i : Instr}

/-- An operation with an operand that its rule does not accept gives the error response and does nothing (R77). -/
theorem exec_of_not_wellFormed (hwf : i.wellFormed = false) : exec i s = .next (respondErr s) := by
  cases i with
  | frStat sel => simp only [exec, execFrStat, (statReg_eq_none_iff sel).mpr hwf]
  | enc a body => exact if_pos (Nat.not_le.mp (of_decide_eq_false hwf))
  | _ => cases hwf

/-- Any other operation responds without error and with a value of its kind, after changes that touch neither the
parameters nor the two lists of the command port (R76). -/
theorem exec_of_wellFormed (hwf : i.wellFormed = true) :
    ∃ (u : State) (v : RspVal), exec i s = .next (respond v u) ∧ AnswerKind i v ∧
      u.responses = s.responses ∧ u.pending = s.pending ∧ u.params = s.params := by
  cases i with
  | frPop =>
    simp only [exec, execFrPop]
    split <;> exact ⟨_, _, rfl, ⟨_, rfl⟩, rfl, rfl, rfl⟩
  | frStat sel =>
    simp only [exec, execFrStat]
    split
    · exact ⟨_, _, rfl, ⟨_, rfl⟩, rfl, rfl, rfl⟩
    · next hsel => rw [Instr.wellFormed, (statReg_eq_none_iff sel).mp hsel] at hwf; cases hwf
  | enc a body => exact ⟨s, _, if_neg (Nat.not_lt.mpr (of_decide_eq_true hwf)), ⟨_, rfl⟩, rfl, rfl, rfl⟩
  | rbRd => exact ⟨_, _, rfl, ⟨_, _, rfl⟩, rfl, rfl, rfl⟩
  | crcRd | rbLen | frHas => exact ⟨_, _, rfl, ⟨_, rfl⟩, rfl, rfl, rfl⟩
  | _ => exact ⟨_, _, rfl, rfl, rfl, rfl, rfl⟩

end

/-- Settles O10: the one response is the error response where an operand is not accepted, and otherwise of the kind
in the table. -/
theorem oneResponseOfTheTabledKind : Obligations.OneResponseOfTheTabledKind := by
  unfold Obligations.OneResponseOfTheTabledKind
  intro i s
  cases hwf : i.wellFormed with
  | false => exact ⟨_, _, exec_of_not_wellFormed hwf, rfl, rfl, rfl, fun _ => rfl, nofun⟩
  | true =>
    obtain ⟨u, v, hexec, hkind, hresp, hpend, hparams⟩ := exec_of_wellFormed (s := s) hwf
    refine ⟨_, { err := false, val := v }, hexec, by simp [hresp], hpend, hparams, nofun, fun _ => ?_⟩
    cases i <;> exact hkind

/-- Settles O11: the operands that a rule does not accept are the ones listed, and the last response tells the two
cases apart. -/
theorem errorResponseOnlyForBadOperands : Obligations.ErrorResponseOnlyForBadOperands := by
  unfold Obligations.ErrorResponseOnlyForBadOperands
  intro i s t ht
  rw [← wellFormed_eq_false_iff]
  cases hwf : i.wellFormed with
  | false =>
    cases (exec_of_not_wellFormed hwf).symm.trans ht
    exact ⟨iff_of_true rfl rfl, fun _ => rfl⟩
  | true =>
    obtain ⟨u, v, hexec, -, hresp, -⟩ := exec_of_wellFormed (s := s) hwf
    cases hexec.symm.trans ht
    simp [hresp]

/-! ### The pseudo-instructions (R82) -/

/-- Repeating an expansion made byte by byte is expanding the repeated bytes (R82). -/
theorem repeatOps_map (n : Nat) (f : Byte → Instr) (l : List Byte) :
    repeatOps n (l.map f) = (List.replicate n l).flatten.map f := by
  rw [repeatOps, List.map_flatten, List.map_replicate]

/-- Settles O15: each expansion is a map over the bytes, and `.rep` repeats it. -/
theorem pseudoInstructionsAsWords : Obligations.PseudoInstructionsAsWords := by
  unfold Obligations.PseudoInstructionsAsWords
  intro l
  refine ⟨List.map_map, congrArg _ List.map_map, List.map_map, fun n => ?_⟩
  exact congrArg some (repeatOps_map n .frFeed l)

end Sys2Proof.Machine
end

section
namespace Sys2Proof.Machine

/-! ### The circuit form of the CRC step (R102) and leading zero bytes (R103) -/

/-- The 16-bit word `{p, b}` of R100: the previous byte over the byte. -/
theorem zext16_or_shiftLeft_eq_append (p b : Byte) : zext16 b ||| zext16 p <<< 8 = (p ++ b : BitVec 16) := by
  rw [BitVec.append_def, BitVec.shiftLeftZeroExtend_eq, BitVec.setWidth'_eq, BitVec.or_comm]
  rfl

/-- The mask of R100 takes away the one bit that the shift drops. -/
theorem and_mask_shiftLeft_one (c : U16) : (c &&& 0x7FFF) <<< 1 = c <<< 1 := by
  apply BitVec.eq_of_toNat_eq
  have hmask : (c &&& 0x7FFF).toNat = c.toNat % 2 ^ 15 := Nat.and_two_pow_sub_one_eq_mod c.toNat 15
  rw [BitVec.toNat_shiftLeft, BitVec.toNat_shiftLeft, hmask, Nat.shiftLeft_eq, Nat.shiftLeft_eq]
  omega

/-- The test of R100 is a test of bit 15. -/
theorem and_highBit_ne_zero_iff (c : U16) : c &&& 0x8000 ≠ 0 ↔ c.getLsbD 15 = true := by
  have hand : c &&& 0x8000 = if c.getLsbD 15 then 0x8000 else 0 := BitVec.and_twoPow c 15
  rw [hand]
  cases c.getLsbD 15 <;> decide

/-- The CRC step as a circuit builds it (R102). -/
theorem crcStep_eq_circuit (c : U16) (p b : Byte) :
    crcStep c p b = ((c <<< 1) ^^^ (if c.getLsbD 15 then 0x8005 else 0x0000) ^^^ (p ++ b : BitVec 16), b) := by
  simp only [crcStep, and_highBit_ne_zero_iff, and_mask_shiftLeft_one, zext16_or_shiftLeft_eq_append]
  split
  · rfl
  · simp

/-- A zero byte leaves the start values as they are (R103). -/
theorem crcStep_start_zero : crcStep Config.crcInit Config.prevInit 0x00 = (Config.crcInit, Config.prevInit) := by
  decide

/-- Leading zero bytes do not change the CRC (R103). -/
theorem crc16_replicate_zero_append (n : Nat) (l : List Byte) : crc16 (List.replicate n 0x00 ++ l) = crc16 l := by
  induction n with
  | zero => rfl
  | succ n ih => rwa [List.replicate_succ, List.cons_append, crc16, crcFold_cons, crcStep_start_zero]

/-- Settles O16: the circuit form, and the corner cases, of which only the leading zero bytes need an induction. -/
theorem crcStepCircuitFormAndCornerCases : Obligations.CrcStepCircuitFormAndCornerCases := by
  unfold Obligations.CrcStepCircuitFormAndCornerCases
  exact ⟨crcStep_eq_circuit, rfl, crc16_replicate_zero_append, by decide, by decide⟩

/-! ### A stream of operations folds the bytes of its updates (R106, R108) -/

/-- The byte that an operation folds into the CRC unit, if it folds one (R106). -/
def updByte : Instr → Option Byte
  | .crcUpd b => some b
  | _ => none

/-- The CRC unit after a list of bytes (R101, R106). -/
def Crcu.fold (c : Crcu) (l : List Byte) : Crcu :=
  { crc := (crcFold (c.crc, c.prev) l).1, prev := (crcFold (c.crc, c.prev) l).2 }

theorem Crcu.fold_append (c : Crcu) (l m : List Byte) : c.fold (l ++ m) = (c.fold l).fold m := by
  simp only [Crcu.fold, crcFold_append]

/-- A clear unit computes `crc16`, and keeps the last byte beside it (R108). -/
theorem Crcu.fold_clear (l : List Byte) :
    ({ crc := 0x0000, prev := 0x00 } : Crcu).fold l = { crc := crc16 l, prev := l.getLastD 0x00 } := by
  rw [← crcFold_snd (0x0000, 0x00) l]
  rfl

/-- Every operation but CRC_CLR folds its update byte, if it has one, and leaves the CRC unit alone otherwise. -/
theorem exec_crcu_eq_fold {s t : State} {i : Instr} (hi : i ≠ .crcClr) (h : exec i s = .next t) :
    t.crcu = s.crcu.fold (updByte i).toList := by
  cases i with
  | crcClr => exact absurd rfl hi
  | crcUpd b => cases h; rfl
  | crcRd => exact exec_crcRd_crcu h
  | _ => exact (exec_effect h).crcu_eq (by simp [unitOf])

/-- A stream without a CRC_CLR folds the bytes of its updates, in order. -/
theorem execAll_crcu_eq_fold {is : List Instr} (his : ∀ i ∈ is, i ≠ .crcClr) (s : State) :
    ∃ t, execAll is s = .next t ∧ t.crcu = s.crcu.fold (is.filterMap updByte) := by
  induction is generalizing s with
  | nil => exact ⟨s, rfl, rfl⟩
  | cons i is ih =>
    rw [List.forall_mem_cons] at his
    obtain ⟨hi, his⟩ := his
    obtain ⟨u, hexec, -⟩ := exec_next_withPending i s
    obtain ⟨t, hall, hcrcu⟩ := ih his u
    refine ⟨t, (execAll_cons_of_exec hexec is).trans hall, ?_⟩
    calc t.crcu
      _ = (s.crcu.fold (updByte i).toList).fold (is.filterMap updByte) := by
          rw [hcrcu, exec_crcu_eq_fold hi hexec]
      _ = s.crcu.fold ((i :: is).filterMap updByte) := by
          rw [← Crcu.fold_append, List.filterMap_cons]
          cases updByte i <;> rfl

/-- From a clear unit, a stream without a CRC_CLR computes `crc16` of the bytes of its updates (R108). -/
theorem execAll_crcu_of_clear {is : List Instr} (his : ∀ i ∈ is, i ≠ .crcClr) {s : State}
    (hclear : s.crcu = { crc := 0x0000, prev := 0x00 }) :
    ∃ t, execAll is s = .next t ∧
      t.crcu = { crc := crc16 (is.filterMap updByte), prev := (is.filterMap updByte).getLastD 0x00 } := by
  obtain ⟨t, hall, hcrcu⟩ := execAll_crcu_eq_fold his s
  exact ⟨t, hall, by rw [hcrcu, hclear, Crcu.fold_clear]⟩

/-- Settles O20: CRC_CLR makes the unit clear, so both halves are the run from a clear unit. -/
theorem crcUpdatesComputeCrc16 : Obligations.CrcUpdatesComputeCrc16 := by
  unfold Obligations.CrcUpdatesComputeCrc16
  intro is s his bytes computes
  have read_after {program : List Instr} {t : State} (hall : execAll program s = .next t)
      (hcrcu : t.crcu = { crc := crc16 bytes, prev := bytes.getLastD 0x00 }) : computes program :=
    ⟨t, respond (.u16 t.crcu.crc) t, hall, hcrcu, rfl, by rw [hcrcu]; rfl⟩
  constructor
  · intro hclear
    obtain ⟨t, hall, hcrcu⟩ := execAll_crcu_of_clear his hclear
    exact read_after hall hcrcu
  · obtain ⟨u, hexec, hclear⟩ : ∃ u, exec .crcClr s = .next u ∧ u.crcu = { crc := 0x0000, prev := 0x00 } :=
      ⟨_, rfl, rfl⟩
    obtain ⟨t, hall, hcrcu⟩ := execAll_crcu_of_clear his hclear
    exact read_after ((execAll_cons_of_exec hexec is).trans hall) hcrcu

/-! ### The operations of the CRC unit (R105 to R107) -/

/-- Settles O17: the clear state is that of the start values. -/
theorem crcClrClearsTheUnit : Obligations.CrcClrClearsTheUnit := by
  unfold Obligations.CrcClrClearsTheUnit
  exact ⟨rfl, fun _ => rfl⟩

/-- Settles O18: CRC_UPD is `crcStep`, in its circuit form. -/
theorem crcUpdFoldsOneByte : Obligations.CrcUpdFoldsOneByte := by
  unfold Obligations.CrcUpdFoldsOneByte
  refine ⟨fun _ => rfl, fun b s => ?_⟩
  simp only [exec, execCrcUpd, crcStep_eq_circuit]
  rfl

/-- Settles O19: CRC_RD only adds its response. -/
theorem crcRdReturnsTheCrc : Obligations.CrcRdReturnsTheCrc := by
  unfold Obligations.CrcRdReturnsTheCrc
  exact ⟨rfl, fun _ => rfl⟩

end Sys2Proof.Machine
end

section
namespace Sys2Proof.Machine

/-! ### Where the pointers of a ring meet (R120) -/

/-- The distance from head to tail is the length modulo the capacity, so they meet at its two ends. -/
theorem Ring.Inv.head_eq_tail_iff {cap : Nat} {r : Ring} (h : r.Inv cap) :
    r.head = r.tail ↔ r.len.toNat = 0 ∨ r.len.toNat = cap := by
  obtain ⟨hlen, hhead, -, htail, -, -⟩ := h
  rw [← BitVec.toNat_inj, htail]
  by_cases hwrap : r.head.toNat + r.len.toNat < cap
  · rw [Nat.mod_eq_of_lt hwrap]
    omega
  · rw [Nat.mod_eq_sub_mod (by omega), Nat.mod_eq_of_lt (by omega)]
    omega

/-- Settles O21: each primitive keeps R120, and the pointers meet at the two ends of the length's range. -/
theorem ringPrimitivesKeepTheInvariant : Obligations.RingPrimitivesKeepTheInvariant := by
  unfold Obligations.RingPrimitivesKeepTheInvariant
  exact fun _ _ b hcap1 hcap h =>
    ⟨Ring.reset_inv hcap1, h.clear hcap1, h.write hcap1 hcap b, h.read hcap1 hcap, h.head_eq_tail_iff⟩

/-! ### The ring primitives on the list of stored bytes (R129) -/

theorem Ring.contents_eq_nil_iff {cap : Nat} {r : Ring} : r.contents cap = [] ↔ r.len = 0 := by
  rw [← List.length_eq_zero_iff, Ring.contents_length, ← BitVec.toNat_inj]
  rfl

/-- A read splits the contents of a ring that is not empty: the byte it answers, then what it leaves. -/
theorem Ring.Inv.contents_eq_read_cons {cap : Nat} {r : Ring} (hcap : cap ≤ 65535) (h : r.Inv cap)
    (hne : r.len ≠ 0) : r.contents cap = (r.read cap).2.1 :: (r.read cap).2.2.contents cap := by
  have hhead := h.head_lt
  have hlen : r.len.toNat = (r.len - 1).toNat + 1 := by bv_omega
  have hnext : (Ring.next cap r.head).toNat = (r.head.toNat + 1) % cap := Ring.next_toNat (by omega) (by omega) _
  rw [Ring.read_of_nonempty hne, Ring.contents, hlen, List.range_succ_eq_map, List.map_cons, List.map_map,
    Nat.add_zero, Nat.mod_eq_of_lt hhead]
  congr 1
  refine List.map_congr_left fun i _ => ?_
  simp only [Function.comp_apply, hnext, Nat.mod_add_mod, Nat.succ_eq_add_one, Nat.add_assoc, Nat.add_comm 1]

/-- A read of a ring whose oldest byte is known (R122, R129). -/
theorem Ring.Inv.read_of_contents_cons {cap : Nat} {r : Ring} {d : Byte} {rest : List Byte} (hcap : cap ≤ 65535)
    (h : r.Inv cap) (hc : r.contents cap = d :: rest) :
    (r.read cap).1 = true ∧ (r.read cap).2.1 = d ∧ (r.read cap).2.2.contents cap = rest := by
  have hne : r.len ≠ 0 := fun h0 => by simp [Ring.contents_of_empty h0] at hc
  obtain ⟨hd, hrest⟩ := List.cons_eq_cons.mp (h.contents_eq_read_cons hcap hne ▸ hc)
  exact ⟨by rw [Ring.read_of_nonempty hne], hd, hrest⟩

theorem Ring.len_ne_zero_of_full {cap : Nat} {r : Ring} (hcap1 : 1 ≤ cap) (hfull : r.len.toNat = cap) :
    r.len ≠ 0 := by
  intro h0
  rw [h0] at hfull
  exact absurd hfull (Nat.ne_of_lt hcap1)

/-- A write to a full ring is a read, which makes room, and then the write (R124). -/
theorem Ring.write_of_full {cap : Nat} {r : Ring} (hcap1 : 1 ≤ cap) (hfull : r.len.toNat = cap) (b : Byte) :
    r.write cap b = (r.read cap).2.2.write cap b := by
  have hne : r.len ≠ 0 := Ring.len_ne_zero_of_full hcap1 hfull
  have hroom : (r.len - 1).toNat ≠ cap := by bv_omega
  have hlen : r.len - 1 + 1 = r.len := BitVec.sub_add_cancel _ _
  simp only [Ring.read_of_nonempty hne, Ring.write, if_pos hfull, if_neg hroom, hlen]

/-- A write appends its byte to the contents; on a full ring the read that makes room drops the oldest byte first
(R124, R129). -/
theorem Ring.Inv.contents_write {cap : Nat} {r : Ring} (hcap1 : 1 ≤ cap) (hcap : cap ≤ 65535) (h : r.Inv cap)
    (b : Byte) : (r.write cap b).contents cap =
      if (r.contents cap).length < cap then r.contents cap ++ [b] else (r.contents cap).drop 1 ++ [b] := by
  rw [Ring.contents_length]
  split
  next hroom => exact Ring.contents_write_of_room hcap h hroom b
  next hfull =>
    have hfull : r.len.toNat = cap := Nat.le_antisymm h.len_le (Nat.le_of_not_lt hfull)
    have hcons := h.contents_eq_read_cons hcap (Ring.len_ne_zero_of_full hcap1 hfull)
    have hlen := congrArg List.length hcons
    rw [List.length_cons, Ring.contents_length, Ring.contents_length] at hlen
    rw [Ring.write_of_full hcap1 hfull, Ring.contents_write_of_room hcap (h.read hcap1 hcap) (by omega), hcons,
      List.drop_one, List.tail_cons]

/-- Settles O22: the rules for an empty ring, for a write and for a read, put together. -/
theorem ringPrimitivesOnContents : Obligations.RingPrimitivesOnContents := by
  unfold Obligations.RingPrimitivesOnContents
  exact fun _ _ b hcap1 hcap h =>
    ⟨Ring.contents_of_empty rfl, h.contents_write hcap1 hcap b,
      fun hc => Ring.read_of_empty (Ring.contents_eq_nil_iff.mp hc), fun _ _ hc => h.read_of_contents_cons hcap hc⟩

/-! ### Sequences of writes and reads of the host ring (R126, R127) -/

/-- The newest `n` elements of a list are enough to know the newest `n` of a longer one. -/
theorem rtake_rtake_append {α : Type} (n : Nat) (l m : List α) : (l.rtake n ++ m).rtake n = (l ++ m).rtake n := by
  simp only [List.rtake_eq_reverse_take_reverse, List.reverse_append, List.reverse_reverse, List.take_append,
    List.take_take, Nat.min_eq_left (Nat.sub_le n _)]

/-- After a write the ring holds the newest `cap` of its bytes and the one written (R124). -/
theorem Ring.Inv.contents_write_eq_rtake {cap : Nat} {r : Ring} (hcap1 : 1 ≤ cap) (hcap : cap ≤ 65535)
    (h : r.Inv cap) (b : Byte) : (r.write cap b).contents cap = (r.contents cap ++ [b]).rtake cap := by
  have hle := h.len_le
  rw [h.contents_write hcap1 hcap, List.rtake, List.length_append, List.length_singleton, Ring.contents_length]
  split
  next hroom => rw [Nat.sub_eq_zero_of_le hroom, List.drop_zero]
  next hfull =>
    rw [show r.len.toNat + 1 - cap = 1 by omega, List.drop_append_of_le_length (by rw [Ring.contents_length]; omega)]

/-- RB_WR of a byte list is the ring write of each byte; no other unit and no parameter changes (R126). -/
theorem execAll_rbWrs (l : List Byte) (s : State) :
    ∃ t, execAll (rbWrs l) s = .next t ∧ t.rbx = l.foldl (Ring.write s.params.rbxCap) s.rbx ∧
      t.params = s.params ∧ t.crcu = s.crcu ∧ t.fr = s.fr := by
  induction l generalizing s with
  | nil => exact ⟨s, rfl, rfl, rfl, rfl, rfl⟩
  | cons b l ih => exact ih (respond .none (s.withRbx (s.rbx.write s.params.rbxCap b)))

/-- Writing a byte list keeps R120, and leaves the newest `cap` of the bytes that were there and those written. -/
theorem Ring.Inv.foldl_write {cap : Nat} (hcap1 : 1 ≤ cap) (hcap : cap ≤ 65535) (l : List Byte) {r : Ring}
    (h : r.Inv cap) :
    (l.foldl (Ring.write cap) r).Inv cap ∧
      (l.foldl (Ring.write cap) r).contents cap = (r.contents cap ++ l).rtake cap := by
  induction l generalizing r with
  | nil =>
    have hle : (r.contents cap).length ≤ cap := by rw [Ring.contents_length]; exact h.len_le
    exact ⟨h, by rw [List.append_nil, List.rtake, Nat.sub_eq_zero_of_le hle]; rfl⟩
  | cons b l ih =>
    obtain ⟨hinv, hcontents⟩ := ih (h.write hcap1 hcap b)
    refine ⟨hinv, hcontents.trans ?_⟩
    rw [h.contents_write_eq_rtake hcap1 hcap, rtake_rtake_append, List.append_assoc, List.singleton_append]

/-- Settles O25: the ring's length is that of its contents, which is the capacity when that many bytes came. -/
theorem rbWritesKeepTheNewestBytes : Obligations.RbWritesKeepTheNewestBytes := by
  unfold Obligations.RbWritesKeepTheNewestBytes
  intro l s hp h all
  obtain ⟨t, hall, hrbx, hparams, hcrcu, hfr⟩ := execAll_rbWrs l s
  obtain ⟨hinv, hcontents⟩ := h.foldl_write hp.rbxCap_pos hp.rbxCap_le l
  rw [← hrbx] at hinv hcontents
  have hlen : t.rbx.len.toNat = all.length - (all.length - s.params.rbxCap) := by
    rw [← Ring.contents_length s.params.rbxCap, hcontents, List.rtake, List.length_drop]
  refine ⟨t, hall, hinv, hcontents, ?_, hcrcu, hfr⟩
  rw [State.rbxFull, Ring.isFull, hparams, decide_eq_decide]
  omega

/-- Reading a ring as often as it holds bytes answers them, oldest first, and changes no other unit (R127). -/
theorem execAll_rbRd_of_contents (l : List Byte) {s : State} (hp : s.params.Ok) (h : s.rbx.Inv s.params.rbxCap)
    (hl : s.rbx.contents s.params.rbxCap = l) :
    ∃ t, execAll (List.replicate l.length .rbRd) s = .next t ∧
      t.responses = s.responses ++ l.map (fun d => { err := false, val := .byte true d }) ∧
      t.rbx.len = 0 ∧ t.crcu = s.crcu ∧ t.fr = s.fr := by
  induction l generalizing s with
  | nil => exact ⟨s, rfl, (List.append_nil _).symm, Ring.contents_eq_nil_iff.mp hl, rfl, rfl⟩
  | cons d rest ih =>
    obtain ⟨hvalid, hd, hrest⟩ := h.read_of_contents_cons hp.rbxCap_le hl
    have hexec : exec .rbRd s =
        .next (respond (.byte true d) (s.withRbx (s.rbx.read s.params.rbxCap).2.2)) := by
      simp only [exec, execRbRd, hvalid, hd]
    obtain ⟨t, hall, hresponses, hlen, hcrcu, hfr⟩ :=
      ih (s := respond (.byte true d) (s.withRbx (s.rbx.read s.params.rbxCap).2.2)) hp
        (h.read hp.rbxCap_pos hp.rbxCap_le) hrest
    refine ⟨t, (execAll_cons_of_exec hexec _).trans hall, ?_, hlen, hcrcu, hfr⟩
    rw [hresponses, respond_responses, State.withRbx_responses, List.append_assoc, List.map_cons, List.singleton_append]

/-- Settles O27: the ring's own contents are the bytes that as many reads answer. -/
theorem rbReadsReturnTheContentsInOrder : Obligations.RbReadsReturnTheContentsInOrder := by
  unfold Obligations.RbReadsReturnTheContentsInOrder
  intro s hp h
  obtain ⟨t, hall, hresponses, hlen, hcrcu, hfr⟩ := execAll_rbRd_of_contents _ hp h rfl
  exact ⟨t, hall, hresponses, Ring.contents_of_empty hlen, decide_eq_true hlen, hcrcu, hfr⟩

/-! ### The operations of the host ring (R125 to R128) -/

/-- Settles O24: the slot at the tail is the one the storage is written at. -/
theorem rbWrStoresAtTheTail : Obligations.RbWrStoresAtTheTail := by
  unfold Obligations.RbWrStoresAtTheTail
  refine ⟨fun _ => rfl, fun b s _ hwf => ?_⟩
  have hread (a : Nat) := Memory.read_write hwf s.rbx.tail.toNat b a
  refine ⟨_, Memory.write s.rbx.mem s.rbx.tail.toNat b, rfl, ?_, by rw [hread, if_pos rfl],
    fun a ha => by rw [hread, if_neg ha]⟩
  rw [← Ring.next, ← Ring.next, ← Ring.write_head, ← Ring.write_tail, ← Ring.write_len, ← Ring.write_mem]
  rfl

/-- Settles O23: the storage is kept, and a ring of length 0 is empty, and full at no capacity in range. -/
theorem rbClrEmptiesTheRing : Obligations.RbClrEmptiesTheRing := by
  unfold Obligations.RbClrEmptiesTheRing
  refine ⟨rfl, fun s => ⟨rfl, fun t ht => ?_⟩⟩
  cases ht
  exact ⟨Ring.contents_of_empty rfl, rfl, fun hcap => decide_eq_false (Nat.ne_of_lt hcap)⟩

/-- Settles O26: RB_RD answers what the ring read gives, in its two cases. -/
theorem rbRdTakesTheByteAtTheHead : Obligations.RbRdTakesTheByteAtTheHead := by
  unfold Obligations.RbRdTakesTheByteAtTheHead
  refine ⟨rfl, fun s => ⟨fun hempty => ?_, fun hne => ?_⟩⟩
  · simp only [exec, execRbRd, Ring.read_of_empty hempty]
    rfl
  · simp only [exec, execRbRd, Ring.read_of_nonempty hne]
    rfl

/-- Settles O28: the contents are as long as the length register says. -/
theorem rbLenReturnsTheNumberOfStoredBytes : Obligations.RbLenReturnsTheNumberOfStoredBytes := by
  unfold Obligations.RbLenReturnsTheNumberOfStoredBytes
  refine ⟨rfl, fun s => ?_⟩
  rw [Ring.contents_length, BitVec.ofNat_toNat]
  exact ⟨rfl, Ring.Inv.len_le⟩

end Sys2Proof.Machine
end

section
namespace Sys2Proof.Machine

/-! ### What the framer puts in its queue (R174, R181, R188) -/

section
variable {f : Framer} {d : Nat} {b : Byte} {p q : Packet}

/-- The queue after an enqueue holds packets that were in it, and the new one (R181). -/
theorem Framer.mem_pq_of_mem_enqueue (h : q ∈ (f.enqueue d p).pq) : q ∈ f.pq ∨ q = p := by
  rw [Framer.enqueue_pq] at h
  split at h <;> rw [List.mem_append, List.mem_singleton] at h
  · exact h.imp_left List.mem_of_mem_drop
  · exact h

/-- A packet in the queue after FR_FEED was there before, or is the frame that this byte completes, whose checksum
field is the running CRC (R174). -/
theorem Framer.mem_pq_of_mem_feed (h : p ∈ (f.feed d b).pq) :
    p ∈ f.pq ∨ f.fst = .checksumHigh ∧ p = f.packet f.fCrc := by
  rw [Framer.feed, Framer.decay_pq, Framer.onState_pq] at h
  split at h
  next hvalid =>
    obtain ⟨hfst, hck⟩ := hvalid
    rw [← hck] at h
    exact (Framer.mem_pq_of_mem_enqueue h).imp_right fun hp => ⟨hfst, hp⟩
  next => exact .inl h

/-- In ChecksumHigh the running CRC covers the bytes that the packet's checksum is calculated over (R142, R189). -/
theorem Framer.RunningCrc.calculatedChecksum_packet (h : f.RunningCrc) (hfst : f.fst = .checksumHigh) (ck : U16) :
    (f.packet ck).calculatedChecksum = f.fCrc := by
  simp only [Framer.RunningCrc, hfst] at h
  exact congrArg Prod.fst h.symm

/-- The frame that a byte completes is good when its checksum field is the running CRC: ACC then holds the whole body
(R187), and the running CRC is the calculated checksum (R189). -/
theorem Framer.packet_good (hflight : f.InFlight) (hcrc : f.RunningCrc) (hfst : f.fst = .checksumHigh) :
    (f.packet f.fCrc).Good := by
  obtain ⟨hlen, hmax, -⟩ := (Framer.inFlight_iff_of_checksum (.inr hfst)).mp hflight
  exact ⟨decide_eq_true (hcrc.calculatedChecksum_packet hfst _), (Ring.contents_length _ _).trans hlen, hmax⟩

/-- FR_FEED keeps the packets of the queue good (R188). -/
theorem Framer.feed_keeps_pq_good (hflight : f.InFlight) (hcrc : f.RunningCrc) (hq : ∀ q ∈ f.pq, q.Good) :
    ∀ q ∈ (f.feed d b).pq, q.Good := by
  intro q hmem
  obtain hold | ⟨hfst, rfl⟩ := Framer.mem_pq_of_mem_feed hmem
  · exact hq q hold
  · exact Framer.packet_good hflight hcrc hfst

end

section
variable {s t : State}

/-- Every operation keeps the queue good: only FR_FEED puts a packet in it (R197). -/
theorem exec_keeps_queueGood {i : Instr} (hflight : s.fr.InFlight) (hcrc : s.fr.RunningCrc) (hq : s.QueueGood)
    (hexec : exec i s = .next t) : t.QueueGood := by
  cases exec_effect hexec with
  | answer | crcu | rbClr | rbWr | rbRd => exact hq
  | frRst => exact fun _ hp => absurd hp List.not_mem_nil
  | frFeed b => exact Framer.feed_keeps_pq_good hflight hcrc hq
  | frPop p rest hpq => exact fun q hmem => hq q (hpq ▸ List.mem_cons_of_mem p hmem)

/-- Settles O45: the reset event empties the queue, and of the other steps only an operation can change it. -/
theorem stepKeepsQueuedPacketsGood : Obligations.StepKeepsQueuedPacketsGood := by
  unfold Obligations.StepKeepsQueuedPacketsGood
  intro s t hinv hcrc hq hstep
  obtain ⟨-, rfl⟩ | ⟨es, -, rfl⟩ | ⟨o, es, why, -, -, rfl⟩ | ⟨o, es, i, -, -, hexec⟩ := step_cases hstep
  · exact hq
  · exact fun _ hp => absurd hp List.not_mem_nil
  · exact hq
  · exact exec_keeps_queueGood (s := s.withPending es) hinv.fr_inv.inFlight hcrc hq hexec

end

/-! ### The packet record and its wire form (R53, R141 to R144) -/

theorem lowByte_eq_ofNat (v : U16) : lowByte v = BitVec.ofNat 8 v.toNat := rfl

theorem highByte_eq_ofNat (v : U16) : highByte v = BitVec.ofNat 8 (v.toNat / 256) := by
  rw [highByte, BitVec.extractLsb', Nat.shiftRight_eq_div_pow]

/-- The bytes before the body, written out (R144). -/
theorem frameHeader_eq (a : Byte) (l : U16) :
    frameHeader a l = [0x02, a, BitVec.ofNat 8 l.toNat, BitVec.ofNat 8 (l.toNat / 256)] := by
  rw [frameHeader, lowByte_eq_ofNat, highByte_eq_ofNat]

theorem Packet.isValid_iff (p : Packet) : p.isValid = true ↔ p.calculatedChecksum = p.checksum := decide_eq_true_iff

/-- The wire form, written out (R144). -/
theorem Packet.wire_eq (p : Packet) :
    p.wire = [0x02, p.address, BitVec.ofNat 8 p.length.toNat, BitVec.ofNat 8 (p.length.toNat / 256)] ++ p.body ++
      [BitVec.ofNat 8 p.checksum.toNat, BitVec.ofNat 8 (p.checksum.toNat / 256)] := by
  rw [Packet.wire, frameHeader_eq, lowByte_eq_ofNat, highByte_eq_ofNat]

/-- A frame is its body, four bytes before it and two after it (R144). -/
theorem Packet.wire_length (p : Packet) : p.wire.length = 6 + p.body.length := by
  simp only [Packet.wire_eq, List.length_append, List.length_cons, List.length_nil]
  omega

/-- Settles O29: each derived field is calculated from the bytes of the frame's header and body. -/
theorem packetDerivedFields : Obligations.PacketDerivedFields := by
  unfold Obligations.PacketDerivedFields
  intro p header
  have hsum : p.calculatedChecksum = crc16 (header ++ p.body) := by rw [Packet.calculatedChecksum, frameHeader_eq]
  refine ⟨fun h0 => if_pos h0, fun c rest hne hbody => ?_, hsum, hsum ▸ p.isValid_iff, p.wire_eq, fun hlen => ?_⟩
  · rw [Packet.command, if_neg hne, hbody, List.getElem?_cons_zero]
  · rw [p.wire_length, hlen]

/-! ### The encoder (R145, R147) -/

section
variable {body : List Byte}

theorem lengthField_toNat (h : body.length ≤ 1023) : (lengthField body).toNat = body.length := by
  rw [lengthField, BitVec.toNat_ofNat, Nat.mod_eq_of_lt (by omega)]

/-- The packet that ENC encodes is good: its length and its checksum are derived (R147). -/
theorem Packet.ofBody_good (a : Byte) (h : body.length ≤ 1023) : (Packet.ofBody a body).Good where
  valid := decide_eq_true rfl
  length_eq := (lengthField_toNat h).symm
  length_le := (lengthField_toNat h).le.trans h

/-- ENC of a body that is short enough answers its frame and does nothing else (R145). -/
theorem exec_enc_of_short (a : Byte) (h : body.length ≤ 1023) (s : State) :
    exec (.enc a body) s = .next (respond (.frame (Packet.ofBody a body).wire) s) := if_neg (Nat.not_lt.mpr h)

end

/-- Settles O31: the packet is the one that ENC encodes. -/
theorem encFrameIsTheWireFormOfAGoodPacket : Obligations.EncFrameIsTheWireFormOfAGoodPacket := by
  unfold Obligations.EncFrameIsTheWireFormOfAGoodPacket
  intro a body s h
  exact ⟨_, _, Packet.ofBody_good a h, rfl, rfl, Packet.wire_length _, exec_enc_of_short a h s, rfl⟩

/-- Settles O30: a body too long for a frame is an operand that ENC does not accept; the frame of any other is written
out byte by byte. -/
theorem encReturnsTheFrame : Obligations.EncReturnsTheFrame := by
  unfold Obligations.EncReturnsTheFrame
  refine ⟨fun _ _ => rfl, fun a body s => ?_⟩
  dsimp only
  split
  next hlong => exact exec_of_not_wellFormed (decide_eq_false (Nat.not_le.mpr hlong))
  next hshort =>
    have hshort : body.length ≤ 1023 := Nat.not_lt.mp hshort
    rw [exec_enc_of_short a hshort, Packet.wire_eq]
    simp only [Packet.ofBody, frameHeader_eq, lengthField_toNat hshort]
    rfl

end Sys2Proof.Machine
end

section
namespace Sys2Proof.Machine

/-! ### The two bytes of a 16-bit field (R53) -/

/-- Two bytes joined are taken apart again (R53). -/
theorem lowByte_joinBytes (hi lo : Byte) : lowByte (joinBytes hi lo) = lo := (Laws.Fields.fields_of_append hi lo).2

theorem highByte_joinBytes (hi lo : Byte) : highByte (joinBytes hi lo) = hi := (Laws.Fields.fields_of_append hi lo).1

/-- The two bytes of a 16-bit field joined (R53). -/
theorem joinBytes_highByte_lowByte (v : U16) : joinBytes (highByte v) (lowByte v) = v := opc_append_arg ⟨v, []⟩

/-- Two bytes joined, in numbers: the second one is the high byte (R53). -/
theorem joinBytes_toNat (hi lo : Byte) : (joinBytes hi lo).toNat = 256 * hi.toNat + lo.toNat := by
  have := lo.isLt
  rw [joinBytes, BitVec.toNat_append, ← Nat.shiftLeft_add_eq_or_of_lt this, Nat.shiftLeft_eq, Nat.mul_comm]

theorem joinBytes_eq_ofNat (hi lo : Byte) : joinBytes hi lo = BitVec.ofNat 16 (256 * hi.toNat + lo.toNat) := by
  rw [← joinBytes_toNat, BitVec.ofNat_toNat, BitVec.setWidth_eq]

/-! ### FR_FEED is the rule of the state, beside its two byte counters (R161, R162, R177) -/

/-- The framer with other values of the two byte counters. -/
def Framer.withByteCounts (total dropped : Counter) (f : Framer) : Framer :=
  { f with totalBytesSeen := total, droppedBytes := dropped }

section
variable {f : Framer} {d : Nat} {b : Byte}

/-- The count of R162 before the rule of the state is seen in the byte counters only. -/
theorem Framer.count_onState_withByteCounts (n m : Counter) :
    (f.count.onState d b).withByteCounts n m = (f.onState d b).withByteCounts n m := by
  refine Framer.onState_elim (P := fun g => (f.count.onState d b).withByteCounts n m = g.withByteCounts n m)
    ?stx ?noise ?addr ?low ?oversized ?zero ?start ?body ?cklow ?valid ?fail
  case stx => intro hf hb; rw [Framer.onState_awaitingStx (f := f.count) hf, hb]; rfl
  case noise => intro hf hb; rw [Framer.onState_awaitingStx (f := f.count) hf, Framer.onAwaitingStx_noise hb]; rfl
  case addr => intro hf; rw [Framer.onState_address (f := f.count) hf]; rfl
  case low => intro hf; rw [Framer.onState_lengthLow (f := f.count) hf]; rfl
  case oversized =>
    intro hf h
    rw [Framer.onState_lengthHigh (f := f.count) hf, Framer.onLengthHigh_oversized (f := f.count) h]; rfl
  case zero =>
    intro hf h
    rw [Framer.onState_lengthHigh (f := f.count) hf, Framer.onLengthHigh_zero (f := f.count) h]; rfl
  case start =>
    intro hf h h0
    rw [Framer.onState_lengthHigh (f := f.count) hf, Framer.onLengthHigh_body (f := f.count) h h0]; rfl
  case body => intro hf; rw [Framer.onState_body (f := f.count) hf]; rfl
  case cklow => intro hf; rw [Framer.onState_checksumLow (f := f.count) hf]; rfl
  case valid =>
    intro hf h
    rw [Framer.onState_checksumHigh (f := f.count) hf, Framer.onChecksumHigh_valid (f := f.count) h]
    unfold Framer.validPacket Framer.enqueue
    rw [Framer.count_pq]
    split <;> rfl
  case fail =>
    intro hf h
    rw [Framer.onState_checksumHigh (f := f.count) hf, Framer.onChecksumHigh_failure (f := f.count) h]; rfl

/-- The decay of R177 is seen in the byte counters only. -/
theorem Framer.decay_eq_withByteCounts :
    f.decay = f.withByteCounts f.decay.totalBytesSeen f.decay.droppedBytes := by
  unfold Framer.decay
  split <;> rfl

/-- FR_FEED is the rule of the state, but for the two byte counters. -/
theorem Framer.feed_eq_onState :
    f.feed d b = (f.onState d b).withByteCounts (f.feed d b).totalBytesSeen (f.feed d b).droppedBytes :=
  Framer.decay_eq_withByteCounts.trans (Framer.count_onState_withByteCounts _ _)

/-- The byte count after FR_FEED, in every state (R162, R177). -/
theorem Framer.feed_totalBytesSeen :
    (f.feed d b).totalBytesSeen =
      if 0x10000 < (f.totalBytesSeen + 1).toNat then decayed (f.totalBytesSeen + 1) else f.totalBytesSeen + 1 := by
  rw [Framer.feed, Framer.decay_totalBytesSeen, Framer.onState_totalBytesSeen, Framer.count_totalBytesSeen]

/-- The noise count after FR_FEED, in every state (R163, R177). -/
theorem Framer.feed_droppedBytes :
    (f.feed d b).droppedBytes =
      if 0x10000 < (f.totalBytesSeen + 1).toNat then
        decayed (if f.fst = .awaitingStx ∧ b ≠ Config.stx then f.droppedBytes + 1 else f.droppedBytes)
      else if f.fst = .awaitingStx ∧ b ≠ Config.stx then f.droppedBytes + 1 else f.droppedBytes := by
  rw [Framer.feed, Framer.decay_droppedBytes, Framer.onState_totalBytesSeen, Framer.onState_droppedBytes]
  rfl

end

/-! ### The running CRC (R28, R189) -/

section
variable {f : Framer} {d : Nat} {b : Byte}

/-- One more byte of the frame in the running CRC is one more byte in the fold. -/
theorem Framer.foldCrc_eq_crcFold {l : List Byte} (h : (f.fCrc, f.fPrev) = crcFold (0x0000, 0x00) l) :
    ((f.foldCrc b).fCrc, (f.foldCrc b).fPrev) = crcFold (0x0000, 0x00) (l ++ [b]) := by
  rw [crcFold_concat, ← h]
  rfl

/-- The length completed, the running CRC covers the header and an accumulator that is still empty (R166). -/
theorem Framer.foldCrc_eq_crcFold_header (h : (f.fCrc, f.fPrev) = crcFold (0x0000, 0x00) [0x02, f.fAddr, f.fLenLo])
    (hacc : f.acc.len = 0) {l : U16} (hl : joinBytes b f.fLenLo = l) :
    ((f.foldCrc b).fCrc, (f.foldCrc b).fPrev) =
      crcFold (0x0000, 0x00) ([0x02, f.fAddr, lowByte l, highByte l] ++ f.acc.contents Config.accCap) := by
  rw [← hl, lowByte_joinBytes, highByte_joinBytes, Ring.contents_of_empty hacc, List.append_nil]
  exact Framer.foldCrc_eq_crcFold h

/-- A body byte enters the running CRC and ACC alike: in Body ACC has room for it (R170, R171). -/
theorem Framer.foldCrc_eq_crcFold_body (hacc : f.acc.Inv Config.accCap) (hflight : f.InFlight) (hfst : f.fst = .body)
    (h : f.RunningCrc) :
    ((f.onBody b).fCrc, (f.onBody b).fPrev) =
      crcFold (0x0000, 0x00)
        ([0x02, f.fAddr, lowByte f.fLen, highByte f.fLen] ++ (f.onBody b).acc.contents Config.accCap) := by
  have hroom : f.acc.len.toNat < Config.accCap := Nat.lt_succ_of_le ((hflight.acc_len_le hfst).trans (by decide))
  have hcontents : (f.onBody b).acc.contents Config.accCap = f.acc.contents Config.accCap ++ [b] :=
    Ring.contents_write_of_room (by decide) hacc hroom b
  simp only [Framer.RunningCrc, hfst] at h
  rw [hcontents, ← List.append_assoc]
  exact Framer.foldCrc_eq_crcFold h

/-- The rule of the state keeps R189. -/
theorem Framer.onState_runningCrc (hacc : f.acc.Inv Config.accCap) (hflight : f.InFlight) (h : f.RunningCrc) :
    (f.onState d b).RunningCrc := by
  have hempty (hf : f.fst = .lengthHigh) : f.acc.len = 0 :=
    ((Framer.inFlight_iff_of_header (.inr (.inr (.inr hf)))).mp hflight).1
  refine Framer.onState_elim (P := Framer.RunningCrc)
    ?stx ?noise ?addr ?low ?oversized ?zero ?start ?body ?cklow ?valid ?fail
  case stx => intros; exact (by decide : ((0x0002, 0x02) : U16 × Byte) = crcFold (0x0000, 0x00) [0x02])
  case noise => intro hf _; simp only [Framer.RunningCrc, hf]
  case addr => intro hf; simp only [Framer.RunningCrc, hf] at h; exact Framer.foldCrc_eq_crcFold h
  case low => intro hf; simp only [Framer.RunningCrc, hf] at h; exact Framer.foldCrc_eq_crcFold h
  case zero =>
    intro hf h0; simp only [Framer.RunningCrc, hf] at h; exact Framer.foldCrc_eq_crcFold_header h (hempty hf) h0
  case start =>
    intro hf _ _; simp only [Framer.RunningCrc, hf] at h; exact Framer.foldCrc_eq_crcFold_header h (hempty hf) rfl
  case body =>
    intro hf
    have hcrc := Framer.foldCrc_eq_crcFold_body (b := b) hacc hflight hf h
    have hfst : (f.onBody b).fst = .checksumLow ∨ (f.onBody b).fst = .body := ite_eq_or_eq ..
    obtain hfst | hfst := hfst <;> simp only [Framer.RunningCrc, hfst] <;> exact hcrc
  case cklow => intro hf; simp only [Framer.RunningCrc, hf] at h; exact h
  case oversized | valid | fail => intros; trivial

/-- FR_FEED keeps R189: the running CRC is no byte counter. -/
theorem Framer.RunningCrc.feed (h : f.RunningCrc) (hinv : f.Inv d) : (f.feed d b).RunningCrc := by
  rw [Framer.feed_eq_onState]
  exact Framer.onState_runningCrc hinv.acc_inv hinv.inFlight h

end

/-- Every operation keeps the running CRC: FR_RST ends the frame, and only FR_FEED goes on with it. -/
theorem exec_keeps_runningCrc {s t : State} {i : Instr} (hinv : s.Inv) (h : s.fr.RunningCrc)
    (hexec : exec i s = .next t) : t.fr.RunningCrc := by
  cases exec_effect hexec with
  | answer | crcu | rbClr | rbWr | rbRd | frPop => exact h
  | frRst => trivial
  | frFeed b => exact h.feed hinv.fr_inv

/-- Settles O44: the reset event waits for a frame, and of the other steps only an operation touches the framer. -/
theorem stepKeepsTheRunningCrc : Obligations.StepKeepsTheRunningCrc := by
  unfold Obligations.StepKeepsTheRunningCrc
  intro s t hinv h hstep
  obtain ⟨-, rfl⟩ | ⟨es, -, rfl⟩ | ⟨o, es, why, -, -, rfl⟩ | ⟨o, es, i, -, -, hexec⟩ := step_cases hstep
  · exact h
  · trivial
  · exact h
  · exact exec_keeps_runningCrc (hinv.withPending es) h hexec

end Sys2Proof.Machine
end

section
namespace Sys2Proof.Machine

/-! ### One FR_FEED, state by state (R161 to R177) -/

/-- FR_FEED answers no value, and changes nothing but the framer (R161). -/
theorem exec_frFeed (b : Byte) (s : State) :
    exec (.frFeed b) s = .next (respond .none (s.withFr (s.fr.feed s.params.pqDepth b))) := rfl

/-- Settles O32: the count of the byte, the noise among the bytes, and the decay of the two counters. -/
theorem feedCountsAndDecays : Obligations.FeedCountsAndDecays := by
  unfold Obligations.FeedCountsAndDecays
  refine ⟨fun _ => rfl, fun b s => ⟨_, exec_frFeed b s, ?_⟩⟩
  dsimp only
  rw [respond_fr, State.withFr_fr, Framer.feed_totalBytesSeen, Framer.feed_droppedBytes]
  split
  · exact ⟨decayed_toNat _, decayed_toNat _⟩
  · exact ⟨rfl, rfl⟩

/-- Settles O33: the rule of AwaitingStx has two cases, STX and noise. -/
theorem feedInAwaitingStx : Obligations.FeedInAwaitingStx := by
  unfold Obligations.FeedInAwaitingStx
  intro b s hfst
  have hnoise : (if s.fr.fst = .awaitingStx ∧ b ≠ Config.stx then s.fr.droppedBytes + 1 else s.fr.droppedBytes) =
      if b = Config.stx then s.fr.droppedBytes else s.fr.droppedBytes + 1 := by
    simp only [hfst, true_and, ne_eq, ite_not]
  rw [exec_frFeed, Framer.feed_eq_onState, Framer.feed_totalBytesSeen, Framer.feed_droppedBytes, hnoise,
    Framer.onState_awaitingStx hfst]
  by_cases hb : b = Config.stx
  · subst hb
    rfl
  · simp only [Framer.onAwaitingStx_noise hb, if_neg hb]
    rw [← hfst]
    rfl

/-- Settles O34: each of the three rules stores its byte in one register. -/
theorem feedInAddressLengthLowChecksumLow : Obligations.FeedInAddressLengthLowChecksumLow := by
  unfold Obligations.FeedInAddressLengthLowChecksumLow
  refine fun b s => ⟨_, exec_frFeed b s, fun _ => rfl, fun h => ?_, fun h => ?_, fun h => ?_⟩
  · exact Framer.feed_eq_onState.trans (by rw [Framer.onState_address h]; rfl)
  · exact Framer.feed_eq_onState.trans (by rw [Framer.onState_lengthLow h]; rfl)
  · exact Framer.feed_eq_onState.trans (by rw [Framer.onState_checksumLow h]; rfl)

/-- Settles O35: the rule of LengthHigh has the three cases of R167, R168 and R169. -/
theorem feedInLengthHigh : Obligations.FeedInLengthHigh := by
  unfold Obligations.FeedInLengthHigh
  intro b s hfst l g
  have hl : (joinBytes b s.fr.fLenLo).toNat = l := joinBytes_toNat _ _
  have heq : joinBytes b s.fr.fLenLo = BitVec.ofNat 16 l := joinBytes_eq_ofNat _ _
  refine ⟨_, exec_frFeed b s, rfl, fun hover => ?_, fun hzero => ?_, fun hpos hmax => ?_⟩ <;>
    refine Framer.feed_eq_onState.trans ?_ <;> rw [Framer.onState_lengthHigh hfst]
  · rw [Framer.onLengthHigh_oversized (hl ▸ hover), Framer.oversized, satInc_eq]
    rfl
  · rw [Framer.onLengthHigh_zero (by rw [heq, hzero]; rfl)]
    rfl
  · have hne : joinBytes b s.fr.fLenLo ≠ 0 := by
      intro h0
      rw [h0] at hl
      exact absurd hl (Nat.ne_of_lt hpos)
    rw [Framer.onLengthHigh_body (hl ▸ hmax) hne, heq]
    rfl

/-- Settles O36: the byte is written to ACC, whose storage changes at the tail only. -/
theorem feedInBody : Obligations.FeedInBody := by
  unfold Obligations.FeedInBody
  intro b s hfst hwf
  have hread (a : Nat) := Memory.read_write hwf s.fr.acc.tail.toNat b a
  refine ⟨_, Memory.write s.fr.acc.mem s.fr.acc.tail.toNat b, exec_frFeed b s, rfl, ?_, by rw [hread, if_pos rfl],
    fun a ha => by rw [hread, if_neg ha]⟩
  refine Framer.feed_eq_onState.trans ?_
  rw [Framer.onState_body hfst, ← Ring.next, ← Ring.next, ← Ring.write_head, ← Ring.write_tail, ← Ring.write_len,
    ← Ring.write_mem]
  rfl

/-- Settles O37: the packet is valid or not, and a valid one meets a full queue or one with room. -/
theorem feedInChecksumHigh : Obligations.FeedInChecksumHigh := by
  unfold Obligations.FeedInChecksumHigh
  intro b s hfst ck p sat g full
  have hck : joinBytes b s.fr.fCkLo = ck := joinBytes_eq_ofNat _ _
  have hsat (v : U32) : satInc v = sat v := satInc_eq v
  refine ⟨_, exec_frFeed b s, rfl, fun hvalid => ?_, fun hfail => ?_⟩ <;>
    refine Framer.feed_eq_onState.trans ?_ <;> rw [Framer.onState_checksumHigh hfst]
  · rw [Framer.onChecksumHigh_valid (hvalid.trans hck.symm), hck, ← hsat, Framer.validPacket, Framer.enqueue]
    by_cases hfull : s.fr.pq.length = s.params.pqDepth
    · simp only [full, if_pos hfull]; rfl
    · simp only [full, if_neg hfull]; rfl
  · rw [Framer.onChecksumHigh_failure (hck ▸ hfail), ← hsat, ← hsat]
    rfl

/-! ### The statistics (R184, R192) -/

section
variable {f : Framer} {d : Nat} {b : Byte}

/-- Only a frame that is judged changes the streak (R174, R175). -/
theorem Framer.onState_badPacketStreak :
    (f.onState d b).badPacketStreak =
      if f.fst = .checksumHigh then if f.fCrc = joinBytes b f.fCkLo then 0 else satInc f.badPacketStreak
      else f.badPacketStreak := by
  refine Framer.onState_elim (P := fun g => g.badPacketStreak =
      if f.fst = .checksumHigh then if f.fCrc = joinBytes b f.fCkLo then 0 else satInc f.badPacketStreak
      else f.badPacketStreak)
    ?stx ?noise ?addr ?low ?oversized ?zero ?start ?body ?cklow ?valid ?fail
  case valid => intro hf hc; rw [if_pos hf, if_pos hc]; rfl
  case fail => intro hf hc; rw [if_pos hf, if_neg hc]; rfl
  all_goals intro hf; intros; exact (if_neg (by simp [hf])).symm

/-- The streak is no byte counter: FR_FEED leaves it as the rule of the state does. -/
theorem Framer.feed_badPacketStreak : (f.feed d b).badPacketStreak = (f.onState d b).badPacketStreak := by
  rw [Framer.feed_eq_onState]
  rfl

end

/-- Settles O48: reset and FR_RST clear the streak, FR_POP keeps all but the queue, and the other operations keep the
framer. -/
theorem streakChangesOnlyWhenAFrameIsJudged : Obligations.StreakChangesOnlyWhenAFrameIsJudged := by
  unfold Obligations.StreakChangesOnlyWhenAFrameIsJudged
  constructor
  · intro s t es hp hstep
    rw [step, hp] at hstep
    cases hstep
    rfl
  · intro i s t hexec
    cases i with
    | frRst => cases hexec; rfl
    | frFeed b =>
      cases hexec
      rw [respond_fr, State.withFr_fr, Framer.feed_badPacketStreak, Framer.onState_badPacketStreak,
        joinBytes_eq_ofNat, satInc_eq]
    | frPop => rw [(exec_effect hexec).fr_eq_of_frPop]
    | _ => rw [(exec_effect hexec).fr_eq (by simp [unitOf])]

/-- Settles O42: the noise count is at most the byte count, so the quotient is at most 100 and fits in 32 bits. -/
theorem noiseRatioIsAPercentage : Obligations.NoiseRatioIsAPercentage := by
  unfold Obligations.NoiseRatioIsAPercentage
  intro d f h
  have hle : 100 * f.droppedBytes.toNat / f.totalBytesSeen.toNat ≤ 100 :=
    Nat.div_le_of_le_mul (by rw [Nat.mul_comm]; exact Nat.mul_le_mul_right 100 h.dropped_le)
  have hratio : f.noiseRatio.toNat = 100 * f.droppedBytes.toNat / f.totalBytesSeen.toNat := by
    rw [Framer.noiseRatio]
    split
    next h0 => rw [h0]; exact (Nat.div_zero _).symm
    next => exact (BitVec.toNat_ofNat _ _).trans (Nat.mod_eq_of_lt (hle.trans_lt (by decide)))
  exact ⟨hratio ▸ hle, hratio⟩

/-! ### The framer's other operations (R182 to R186) -/

/-- Settles O38: the framer cleared, with the storage of ACC kept. -/
theorem frRstClearsTheFramer : Obligations.FrRstClearsTheFramer := by
  unfold Obligations.FrRstClearsTheFramer
  exact ⟨rfl, fun _ => rfl⟩

/-- Settles O39: the answer is the level by definition, and the level is the length compared with 0. -/
theorem frHasReturnsPacketAvailable : Obligations.FrHasReturnsPacketAvailable := by
  unfold Obligations.FrHasReturnsPacketAvailable
  exact ⟨rfl, fun _ => ⟨rfl, decide_eq_true_iff⟩⟩

/-- Settles O40: FR_POP is a case split on the queue. -/
theorem frPopTakesTheOldestPacket : Obligations.FrPopTakesTheOldestPacket := by
  unfold Obligations.FrPopTakesTheOldestPacket
  refine ⟨rfl, fun s => ⟨fun hpq => ?_, fun p rest hpq => ?_⟩⟩ <;> simp only [exec, execFrPop, hpq] <;> rfl

/-- FR_STAT with a selector that names a register answers its value and changes nothing else (R185). -/
theorem exec_frStat_of_statReg {sel : Byte} {r : StatReg} (h : statReg sel = some r) (s : State) :
    exec (.frStat sel) s = .next (respond (.u32 (s.fr.stat r)) s) := by
  simp only [exec, execFrStat, h]

/-- Settles O41: each selector names its register, and a reserved one is an operand that FR_STAT does not accept. -/
theorem frStatReturnsTheSelectedStatistic : Obligations.FrStatReturnsTheSelectedStatistic := by
  unfold Obligations.FrStatReturnsTheSelectedStatistic
  refine ⟨fun _ => rfl, ?_⟩
  intro sel s answer
  refine ⟨?total, ?dropped, ?streak, ?badcnt, ?ratio, ?pqcnt, ?pqovf,
    fun hres => exec_of_not_wellFormed (decide_eq_false (Nat.not_lt.mpr hres))⟩ <;> rintro rfl
  case total => exact exec_frStat_of_statReg (r := .total) rfl s
  case dropped => exact exec_frStat_of_statReg (r := .dropped) rfl s
  case streak => exact exec_frStat_of_statReg (r := .streak) rfl s
  case badcnt => exact exec_frStat_of_statReg (r := .badcnt) rfl s
  case ratio => exact exec_frStat_of_statReg (r := .ratio) rfl s
  case pqcnt => exact exec_frStat_of_statReg (r := .pqcnt) rfl s
  case pqovf => exact exec_frStat_of_statReg (r := .pqovf) rfl s

end Sys2Proof.Machine
end

section
namespace Sys2Proof.Machine

/-! ### Feeding a stream (R160) -/

section
variable {f : Framer} {d : Nat}

theorem Framer.feedAll_cons (b : Byte) (l : List Byte) :
    f.feedAll d (b :: l) = (f.feed d b).feedAll d l := rfl

theorem Framer.feedAll_append (l m : List Byte) :
    f.feedAll d (l ++ m) = (f.feedAll d l).feedAll d m := List.foldl_append ..

/-- Feeding any bytes keeps R187. -/
theorem Framer.Inv.feedAll (hd : 1 ≤ d) (h : f.Inv d) (l : List Byte) : (f.feedAll d l).Inv d := by
  induction l generalizing f with
  | nil => exact h
  | cons b l ih => exact ih (h.feed hd b)

/-- Feeding any bytes keeps R189. -/
theorem Framer.RunningCrc.feedAll (hd : 1 ≤ d) (h : f.Inv d) (hcrc : f.RunningCrc) (l : List Byte) :
    (f.feedAll d l).RunningCrc := by
  induction l generalizing f with
  | nil => exact hcrc
  | cons b l ih => exact ih (h.feed hd b) (hcrc.feed h)

end

/-- FR_ADD feeds its bytes to the framer one after another, and answers once for each (R160). -/
theorem execAll_frAdd (l : List Byte) (s : State) :
    execAll (frAdd l) s = .next { s with
      fr := s.fr.feedAll s.params.pqDepth l
      responses := s.responses ++ List.replicate l.length { err := false, val := .none } } := by
  induction l generalizing s with
  | nil => simp only [List.length_nil, List.replicate_zero, List.append_nil]; rfl
  | cons b l ih =>
    refine (execAll_cons_of_exec (exec_frFeed b s) (frAdd l)).trans ((ih _).trans ?_)
    rw [respond_responses, List.append_assoc, List.singleton_append, ← List.replicate_succ]
    rfl

/-- The block keeps its invariant along FR_ADD. -/
theorem State.Inv.feedAll {s : State} (h : s.Inv) (l : List Byte) (rs : List Response) :
    ({ s with fr := s.fr.feedAll s.params.pqDepth l, responses := rs } : State).Inv :=
  ⟨h.params_ok, h.rbx_inv, h.fr_inv.feedAll h.params_ok.pqDepth_pos l⟩

/-- Settles O55: feeding a concatenation is feeding its parts in turn. -/
theorem feedingIsChunkingInvariant : Obligations.FeedingIsChunkingInvariant := by
  unfold Obligations.FeedingIsChunkingInvariant
  intro chunks s
  refine ⟨_, execAll_frAdd _ s, ?_⟩
  rw [Framer.feedAll, List.foldl_flatten]
  rfl

/-! ### Noise (R163) -/

section
variable {f : Framer} {d : Nat}

/-- A noise byte that does not bring the byte count over the limit is counted twice, and nothing else happens. -/
theorem Framer.feed_noise (hfst : f.fst = .awaitingStx) {b : Byte} (hb : b ≠ Config.stx)
    (hcount : f.totalBytesSeen.toNat < 0x10000) :
    f.feed d b = f.withByteCounts (f.totalBytesSeen + 1) (f.droppedBytes + 1) := by
  have hlimit : ¬0x10000 < (f.totalBytesSeen + 1).toNat := by
    rw [Counter.toNat_add_one (by omega)]
    omega
  rw [Framer.feed_eq_onState, Framer.feed_totalBytesSeen, Framer.feed_droppedBytes, if_neg hlimit, if_neg hlimit,
    if_pos ⟨hfst, hb⟩, Framer.onState_awaitingStx hfst, Framer.onAwaitingStx_noise hb]
  rfl

/-- Noise bytes that do not bring the byte count over the limit are all counted twice. -/
theorem Framer.feedAll_noise (hfst : f.fst = .awaitingStx) {l : List Byte} (hl : ∀ b ∈ l, b ≠ Config.stx)
    (hcount : f.totalBytesSeen.toNat + l.length ≤ 0x10000) :
    f.feedAll d l = f.withByteCounts (f.totalBytesSeen + BitVec.ofNat 32 l.length)
      (f.droppedBytes + BitVec.ofNat 32 l.length) := by
  induction l generalizing f with
  | nil => exact congrArg₂ (f.withByteCounts · ·) (BitVec.add_zero _).symm (BitVec.add_zero _).symm
  | cons b l ih =>
    rw [List.forall_mem_cons] at hl
    rw [List.length_cons] at hcount
    obtain ⟨hb, hl⟩ := hl
    have hone : (f.totalBytesSeen + 1).toNat = f.totalBytesSeen.toNat + 1 := Counter.toNat_add_one (by omega)
    have hlater := ih (f := f.withByteCounts (f.totalBytesSeen + 1) (f.droppedBytes + 1)) hfst hl
      (show (f.totalBytesSeen + 1).toNat + l.length ≤ 0x10000 by omega)
    have hadd (n : Counter) : n + 1 + BitVec.ofNat 32 l.length = n + BitVec.ofNat 32 (l.length + 1) := by
      rw [BitVec.add_assoc, BitVec.add_comm 1, BitVec.ofNat_add]
      rfl
    rw [Framer.feedAll_cons, Framer.feed_noise hfst hb (by omega), hlater, List.length_cons, ← hadd, ← hadd]
    rfl

end

/-- Settles O56: FR_ADD of noise is the noise fed to the framer. -/
theorem noiseIsCountedAndDropped : Obligations.NoiseIsCountedAndDropped := by
  unfold Obligations.NoiseIsCountedAndDropped
  exact fun l s hfst hl hcount => ⟨_, execAll_frAdd l s, Framer.feedAll_noise hfst hl hcount⟩

/-! ### Back in AwaitingStx (R179) -/

section
variable {f : Framer} {d : Nat} {b : Byte}

/-- A bound on the bytes still to come until the framer is in AwaitingStx: of the longest frame while the length is
not known, of this frame after that. -/
def Framer.remaining (f : Framer) : Nat :=
  match f.fst with
  | .awaitingStx => 0
  | .address => 1028
  | .lengthLow => 1027
  | .lengthHigh => 1026
  | .body => f.fRem.toNat + 2
  | .checksumLow => 2
  | .checksumHigh => 1

/-- No frame is longer than 1029 bytes (R170). -/
theorem Framer.InFlight.remaining_le (h : f.InFlight) : f.remaining ≤ 1028 := by
  cases hfst : f.fst with
  | body =>
    obtain ⟨-, -, hle, hmax⟩ := (Framer.inFlight_iff_of_body hfst).mp h
    simp only [Framer.remaining, hfst]
    omega
  | _ => simp only [Framer.remaining, hfst]; decide

/-- Inside a frame, every byte brings its end nearer. -/
theorem Framer.onState_remaining_lt (h : f.InFlight) (hfst : f.fst ≠ .awaitingStx) :
    (f.onState d b).remaining < f.remaining := by
  refine Framer.onState_elim (P := fun g => g.remaining < f.remaining)
    ?stx ?noise ?addr ?low ?oversized ?zero ?start ?body ?cklow ?valid ?fail
  case stx | noise => intro hf; exact absurd hf hfst
  case addr | low | oversized | zero | cklow | valid | fail =>
    intro hf
    simp [Framer.remaining, hf, Framer.onAddress, Framer.onLengthLow, Framer.oversized, Framer.zeroLength,
      Framer.onChecksumLow]
  case start =>
    intro hf hmax _
    simp only [Framer.remaining, hf]
    exact Nat.add_lt_add_right (hmax : _ < 1024) 2
  case body =>
    intro hf
    obtain ⟨-, hpos, -⟩ := (Framer.inFlight_iff_of_body hf).mp h
    have hRem : (f.onBody b).fRem.toNat = f.fRem.toNat - 1 := by
      show (f.fRem - 1).toNat = _
      bv_omega
    have hnext : (f.onBody b).fst = .checksumLow ∨ (f.onBody b).fst = .body := ite_eq_or_eq ..
    obtain hnext | hnext := hnext <;> simp only [Framer.remaining, hf, hnext, hRem] <;> omega

/-- Inside a frame, feeding a byte brings its end nearer. -/
theorem Framer.InFlight.feed_remaining_lt (h : f.InFlight) (hfst : f.fst ≠ .awaitingStx) :
    (f.feed d b).remaining < f.remaining := by
  rw [Framer.feed_eq_onState]
  exact Framer.onState_remaining_lt h hfst

/-- With no byte to come the framer is in AwaitingStx. -/
theorem Framer.fst_of_remaining_eq_zero (h : f.remaining = 0) : f.fst = .awaitingStx := by
  cases hfst : f.fst with
  | awaitingStx => rfl
  | _ => simp [Framer.remaining, hfst] at h

/-- Enough bytes bring the framer to AwaitingStx, at the latest with the last one. -/
theorem Framer.Inv.exists_take_awaitingStx (hd : 1 ≤ d) (h : f.Inv d) {l : List Byte} (hl : f.remaining ≤ l.length) :
    ∃ k ≤ l.length, (f.feedAll d (l.take k)).fst = .awaitingStx := by
  induction l generalizing f with
  | nil => exact ⟨0, Nat.le_refl 0, Framer.fst_of_remaining_eq_zero (Nat.le_zero.mp hl)⟩
  | cons b l ih =>
    by_cases hfst : f.fst = .awaitingStx
    · exact ⟨0, Nat.zero_le _, hfst⟩
    · have hlt := h.inFlight.feed_remaining_lt (d := d) (b := b) hfst
      obtain ⟨k, hk, hback⟩ := ih (h.feed hd b) (Nat.le_of_lt_succ (hlt.trans_le hl))
      exact ⟨k + 1, Nat.succ_le_succ hk, hback⟩

end

/-- Settles O60: the bytes still to come are at most 1028, and every byte makes them fewer. -/
theorem framerReturnsWithinOneFrame : Obligations.FramerReturnsWithinOneFrame := by
  unfold Obligations.FramerReturnsWithinOneFrame
  intro l s h hl
  obtain ⟨k, hk, hback⟩ := h.fr_inv.exists_take_awaitingStx h.params_ok.pqDepth_pos (l := l)
    (hl ▸ h.fr_inv.inFlight.remaining_le)
  exact ⟨k, _, hl ▸ hk, execAll_frAdd _ s, hback⟩

end Sys2Proof.Machine
end

section
namespace Sys2Proof.Machine

/-! ### The header of a frame (R163 to R169) -/

section
variable {f : Framer} {d : Nat}

/-- The first three bytes of a frame: the address and the low length byte are stored. -/
theorem Framer.feedAll_headerStart (hfst : f.fst = .awaitingStx) (a lo : Byte) :
    ∃ c p n m, f.feedAll d [0x02, a, lo] =
      ({ f with fst := .lengthHigh, fAddr := a, fLenLo := lo, fCrc := c, fPrev := p } : Framer).withByteCounts n m := by
  obtain ⟨n, m, hstx⟩ : ∃ n m, f.feed d 0x02 =
      ({ f with fst := .address, fCrc := 0x0002, fPrev := 0x02 } : Framer).withByteCounts n m :=
    ⟨_, _, Framer.feed_eq_onState.trans (by rw [Framer.onState_awaitingStx hfst]; rfl)⟩
  rw [Framer.feedAll_cons, Framer.feedAll_cons, hstx, Framer.feed_eq_onState, Framer.feedAll_cons,
    Framer.feed_eq_onState]
  exact ⟨_, _, _, _, rfl⟩

/-- A length that is not oversized is the number of body bytes awaited, and starts the checksum or the body. -/
theorem Framer.onState_lengthHigh_accepted {b : Byte} (hfst : f.fst = .lengthHigh) (hrem : f.fRem = 0) {l : U16}
    (hl : joinBytes b f.fLenLo = l) (hmax : l.toNat < 1024) :
    f.onState d b =
      { f.foldCrc b with fLen := l, fRem := l, fst := if l = 0 then .checksumLow else .body } := by
  subst hl
  rw [Framer.onState_lengthHigh hfst]
  by_cases h0 : joinBytes b f.fLenLo = 0
  · rw [Framer.onLengthHigh_zero h0, if_pos h0, h0]
    show ({ f.foldCrc b with fLen := 0, fRem := f.fRem, fst := .checksumLow } : Framer) = _
    rw [hrem]
  · rw [Framer.onLengthHigh_body hmax h0, if_neg h0]
    rfl

end

/-! ### A frame in reception (R169 to R171) -/

/-- The framer `g` has received the header of a frame with address `a` and length `l`, and `body` of its body; what
`f` had in its queue and in its count of bad packets is unchanged. -/
structure Framer.Receiving (f : Framer) (a : Byte) (l : U16) (body : List Byte) (g : Framer) : Prop where
  fst : g.fst = if g.fRem = 0 then .checksumLow else .body
  fAddr : g.fAddr = a
  fLen : g.fLen = l
  fRem : g.fRem.toNat + body.length = l.toNat
  acc : g.acc.contents Config.accCap = body
  badPacketCount : g.badPacketCount = f.badPacketCount
  pq : g.pq = f.pq

section
variable {f g : Framer} {d : Nat} {a : Byte} {l : U16} {body : List Byte}

/-- After the header of a frame that is not oversized, its body is awaited. -/
theorem Framer.receiving_frameHeader (h : f.Inv d) (hfst : f.fst = .awaitingStx) (a : Byte) (hl : l.toNat < 1024) :
    f.Receiving a l [] (f.feedAll d (frameHeader a l)) := by
  obtain ⟨hempty, hrem⟩ := (Framer.inFlight_iff_of_header (.inl hfst)).mp h.inFlight
  obtain ⟨c, p, n, m, hstart⟩ := Framer.feedAll_headerStart (d := d) hfst a (lowByte l)
  rw [show frameHeader a l = [0x02, a, lowByte l] ++ [highByte l] from rfl, Framer.feedAll_append, hstart,
    Framer.feedAll_cons, Framer.feed_eq_onState, Framer.onState_lengthHigh_accepted (hmax := hl)]
  · exact ⟨rfl, rfl, rfl, rfl, Ring.contents_of_empty hempty, rfl, rfl⟩
  · rfl
  · exact hrem
  · exact joinBytes_highByte_lowByte l

/-- One more body byte (R171). -/
theorem Framer.Receiving.feed (hr : f.Receiving a l body g) (h : g.Inv d) (hmore : body.length < l.toNat) (b : Byte) :
    f.Receiving a l (body ++ [b]) (g.feed d b) := by
  have hrem := hr.fRem
  have hne : g.fRem ≠ 0 := by
    intro h0
    rw [h0] at hrem
    exact hmore.ne ((Nat.zero_add _).symm.trans hrem)
  have hfst : g.fst = .body := hr.fst.trans (if_neg hne)
  have hroom : g.acc.len.toNat < Config.accCap := Nat.lt_succ_of_le ((h.inFlight.acc_len_le hfst).trans (by decide))
  have hcontents := Ring.contents_write_of_room (by decide) h.acc_inv hroom b
  have hless : (g.fRem - 1).toNat = g.fRem.toNat - 1 := by bv_omega
  rw [Framer.feed_eq_onState, Framer.onState_body hfst]
  refine ⟨rfl, hr.fAddr, hr.fLen, ?_, hcontents.trans (by rw [hr.acc]), hr.badPacketCount, hr.pq⟩
  show (g.fRem - 1).toNat + (body ++ [b]).length = l.toNat
  rw [hless, List.length_append, List.length_singleton]
  omega

/-- More body bytes, as many as the length allows. -/
theorem Framer.Receiving.feedAll (hd : 1 ≤ d) (hr : f.Receiving a l body g) (h : g.Inv d) {more : List Byte}
    (hmore : body.length + more.length ≤ l.toNat) : f.Receiving a l (body ++ more) (g.feedAll d more) := by
  induction more generalizing body g with
  | nil => rw [List.append_nil]; exact hr
  | cons b more ih =>
    rw [List.length_cons] at hmore
    have hnext := hr.feed h (by omega) b
    rw [List.append_cons]
    exact ih hnext (h.feed hd b) (by rw [List.length_append, List.length_singleton]; omega)

/-- The whole body received, the checksum is next, and ACC and the running CRC are those of the packet. -/
theorem Framer.Receiving.packet (hr : f.Receiving a (lengthField body) body g) (hlen : body.length ≤ 1023)
    (hcrc : g.RunningCrc) : g.fst = .checksumLow ∧ g.packet g.fCrc = Packet.ofBody a body := by
  have hrem : g.fRem.toNat = 0 := by
    have := hr.fRem
    rw [lengthField_toNat hlen] at this
    omega
  have hfst : g.fst = .checksumLow := hr.fst.trans (if_pos (BitVec.eq_of_toNat_eq hrem))
  simp only [Framer.RunningCrc, hfst, hr.fAddr, hr.fLen, hr.acc] at hcrc
  have hsum : g.fCrc = crc16 (frameHeader a (lengthField body) ++ body) := congrArg Prod.fst hcrc
  refine ⟨hfst, ?_⟩
  rw [Framer.packet, hr.fAddr, hr.fLen, hr.acc, hsum]
  rfl

end

/-! ### A whole frame (R144, R190) -/

section
variable {f : Framer} {d : Nat}

/-- The two checksum bytes of an accumulated packet, when they are the running CRC: the packet is enqueued and the
streak ends (R172 to R174, R176). -/
theorem Framer.feedAll_checksum (hfst : f.fst = .checksumLow) :
    let g := f.feedAll d [lowByte f.fCrc, highByte f.fCrc]
    g.fst = .awaitingStx ∧ g.badPacketStreak = 0 ∧ g.badPacketCount = f.badPacketCount ∧
      g.pq = (f.enqueue d (f.packet f.fCrc)).pq := by
  have hck : f.fCrc = joinBytes (highByte f.fCrc) (lowByte f.fCrc) := (joinBytes_highByte_lowByte _).symm
  obtain ⟨n, m, hlow⟩ : ∃ n m, f.feed d (lowByte f.fCrc) =
      ({ f with fst := .checksumHigh, fCkLo := lowByte f.fCrc } : Framer).withByteCounts n m :=
    ⟨_, _, Framer.feed_eq_onState.trans (by rw [Framer.onState_checksumLow hfst]; rfl)⟩
  rw [Framer.feedAll_cons, hlow, Framer.feedAll_cons, Framer.feed_eq_onState, Framer.onState_checksumHigh rfl,
    Framer.onChecksumHigh_valid hck]
  refine ⟨rfl, rfl, Framer.enqueue_badPacketCount .., (Framer.enqueue_pq ..).trans ?_⟩
  rw [Framer.enqueue_pq]
  exact hck ▸ rfl

/-- The wire form of a packet that ENC encodes, fed to an idle framer: the packet is enqueued and the streak ends. -/
theorem Framer.feedAll_wire (hd : 1 ≤ d) (h : f.Inv d) (hfst : f.fst = .awaitingStx) (a : Byte)
    {body : List Byte} (hlen : body.length ≤ 1023) :
    let g := f.feedAll d (Packet.ofBody a body).wire
    g.fst = .awaitingStx ∧ g.badPacketStreak = 0 ∧ g.badPacketCount = f.badPacketCount ∧
      g.pq = (f.enqueue d (Packet.ofBody a body)).pq := by
  have hlength := lengthField_toNat hlen
  have hheader : f.Receiving a (lengthField body) [] _ :=
    Framer.receiving_frameHeader h hfst a (hlength ▸ Nat.lt_succ_of_le hlen)
  have hbody := hheader.feedAll hd (h.feedAll hd _) (more := body) (by rw [hlength, List.length_nil, Nat.zero_add])
  rw [← Framer.feedAll_append, List.nil_append] at hbody
  have hcrc := Framer.RunningCrc.feedAll hd h (by simp only [Framer.RunningCrc, hfst])
    (frameHeader a (lengthField body) ++ body)
  obtain ⟨hcklow, hpacket⟩ := hbody.packet hlen hcrc
  obtain ⟨hback, hstreak, hcount, hpq⟩ := Framer.feedAll_checksum (d := d) hcklow
  have hck : (f.feedAll d (frameHeader a (lengthField body) ++ body)).fCrc = (Packet.ofBody a body).checksum :=
    congrArg Packet.checksum hpacket
  rw [hck, ← Framer.feedAll_append] at hback hstreak hcount hpq
  refine ⟨hback, hstreak, hcount.trans hbody.badPacketCount, hpq.trans ?_⟩
  rw [← hck, hpacket, Framer.enqueue_pq, Framer.enqueue_pq, hbody.pq]

end

/-- After an enqueue the queue holds the newest `PQ_DEPTH` of its packets and the new one (R181). -/
theorem Framer.enqueue_pq_eq_rtake {f : Framer} {d : Nat} (hd : 1 ≤ d) (h : f.pq.length ≤ d) (p : Packet) :
    (f.enqueue d p).pq = (f.pq ++ [p]).rtake d := by
  rw [Framer.enqueue_pq, List.rtake, List.length_append, List.length_singleton]
  split
  next hfull =>
    rw [hfull, Nat.add_sub_cancel_left, List.drop_append_of_le_length (hfull ▸ hd)]
  next hroom => rw [Nat.sub_eq_zero_of_le (by omega), List.drop_zero]

/-- Settles O58: the frame that ENC returns is the wire form of the packet, and its last two bytes are the checksum. -/
theorem encodedFrameIsReceived : Obligations.EncodedFrameIsReceived := by
  unfold Obligations.EncodedFrameIsReceived
  intro a body s h hfst hlen
  obtain ⟨hback, hstreak, hcount, hpq⟩ := Framer.feedAll_wire h.params_ok.pqDepth_pos h.fr_inv hfst a hlen
  refine ⟨_, _, _, exec_enc_of_short a hlen s, rfl, execAll_frAdd _ s, h.feedAll _ _, hback, hstreak, hcount, ?_⟩
  have hsum : (Packet.ofBody a body).wire.take ((Packet.ofBody a body).wire.length - 2) =
      frameHeader a (lengthField body) ++ body := by
    rw [Packet.wire, List.length_append]
    exact List.take_left
  rw [hsum]
  refine hpq.trans ((Framer.enqueue_pq ..).trans ?_)
  split <;> rfl

/-- Frames fed back to back from AwaitingStx leave the newest `PQ_DEPTH` packets in order, and the framer idle. -/
theorem Framer.feedAll_wires {d : Nat} (hd : 1 ≤ d) {frames : List (Byte × List Byte)}
    (hlen : ∀ x ∈ frames, x.2.length ≤ 1023) {f : Framer} (h : f.Inv d) (hfst : f.fst = .awaitingStx) :
    let g := f.feedAll d (frames.map (fun x => (Packet.ofBody x.1 x.2).wire)).flatten
    g.fst = .awaitingStx ∧ g.pq = (f.pq ++ frames.map (fun x => Packet.ofBody x.1 x.2)).rtake d := by
  induction frames generalizing f with
  | nil =>
    refine ⟨hfst, ?_⟩
    rw [List.map_nil, List.map_nil, List.append_nil, List.rtake, Nat.sub_eq_zero_of_le h.pq_le]
    rfl
  | cons x frames ih =>
    rw [List.forall_mem_cons] at hlen
    obtain ⟨hx, hlen⟩ := hlen
    obtain ⟨hidle, -, -, hpq⟩ := Framer.feedAll_wire hd h hfst x.1 hx
    obtain ⟨hback, hrest⟩ := ih hlen (h.feedAll hd _) hidle
    rw [← Framer.feedAll_append] at hback hrest
    refine ⟨hback, hrest.trans ?_⟩
    rw [hpq, Framer.enqueue_pq_eq_rtake hd h.pq_le, rtake_rtake_append, List.append_assoc, List.singleton_append,
      List.map_cons]

/-- Settles O59: FR_ADD of the frames is the frames fed back to back. -/
theorem framesFedBackToBackArriveInOrder : Obligations.FramesFedBackToBackArriveInOrder := by
  unfold Obligations.FramesFedBackToBackArriveInOrder
  intro frames s h hfst hlen all
  exact ⟨_, execAll_frAdd _ s, Framer.feedAll_wires h.params_ok.pqDepth_pos hlen h.fr_inv hfst⟩

/-- Settles O57: the fourth byte of the header is the one that abandons the frame. -/
theorem oversizedLengthIsAbandoned : Obligations.OversizedLengthIsAbandoned := by
  unfold Obligations.OversizedLengthIsAbandoned
  intro a lo hi s h hfst hover
  refine ⟨_, execAll_frAdd _ s, h.feedAll _ _, ?_⟩
  obtain ⟨c, p, n, m, hstart⟩ := Framer.feedAll_headerStart (d := s.params.pqDepth) hfst a lo
  have hmax : Config.maxLen ≤ (joinBytes hi lo).toNat := joinBytes_toNat hi lo ▸ hover
  dsimp only
  rw [show [0x02, a, lo, hi] = [0x02, a, lo] ++ [hi] from rfl, Framer.feedAll_append, hstart, Framer.feedAll_cons,
    Framer.feed_eq_onState, Framer.onState_lengthHigh rfl, Framer.onLengthHigh_oversized hmax]
  exact ⟨rfl, rfl, rfl, rfl, satInc_eq _⟩

end Sys2Proof.Machine
end

section
namespace Sys2Proof.Machine

/-! ### No operation stops the block (R195, R199, R200) -/

/-- Settles O14: NOP is the model's `respond` with no value. -/
theorem nopOnlyResponds : Obligations.NopOnlyResponds := by
  unfold Obligations.NopOnlyResponds
  exact ⟨rfl, fun _ => rfl⟩

section
variable {s : State}

/-- With nothing issued a step is no change (R7, log 2). -/
theorem step_of_idle (hp : s.pending = []) : step s = .next s := by simp only [step, hp, idle]

/-- A step whose next event is the reset event puts the block at its reset values (R220). -/
theorem step_of_reset {es : List PortEvent} (hp : s.pending = .reset :: es) :
    step s = .next (blockReset (s.withPending es)) := by
  simp only [step, hp]

end

/-- Settles O9: idle, the reset event, a reserved transaction and an operation each have a next state. -/
theorem everyStepAnswersANextState : Obligations.EveryStepAnswersANextState := by
  unfold Obligations.EveryStepAnswersANextState
  refine fun s => ⟨?_, step_of_idle⟩
  match hp : s.pending with
  | [] => exact ⟨s, step_of_idle hp⟩
  | .reset :: es => exact ⟨_, step_of_reset hp⟩
  | .op o :: es =>
    match hd : decode o with
    | .reserved why => exact ⟨_, step_of_reserved hp hd⟩
    | .op i =>
      obtain ⟨t, hexec, -⟩ := exec_next_withPending i (s.withPending es)
      exact ⟨t, (step_of_decode hp hd).trans hexec⟩

/-! ### The state of one unit (R197) -/

/-- What a unit of R74 holds: the block itself and the encoder hold nothing. -/
inductive UnitState where
  | stateless
  | crcu (c : Crcu)
  | rbx (r : Ring)
  | fr (f : Framer)

/-- The state of one unit of a block. -/
def State.unit (s : State) : BlockUnit → UnitState
  | .block => .stateless
  | .crcu => .crcu s.crcu
  | .rbx => .rbx s.rbx
  | .fr => .fr s.fr
  | .enc => .stateless

theorem State.units_of_unit_eq {s u : State} (h : ∀ k, s.unit k = u.unit k) :
    s.crcu = u.crcu ∧ s.rbx = u.rbx ∧ s.fr = u.fr :=
  ⟨UnitState.crcu.inj (h .crcu), UnitState.rbx.inj (h .rbx), UnitState.fr.inj (h .fr)⟩

/-- An operation leaves every unit but its own as it is. -/
theorem OpEffect.unit_eq {s t : State} {i : Instr} (he : OpEffect s i t) {k : BlockUnit} (hk : unitOf i ≠ k) :
    t.unit k = s.unit k := by
  cases k with
  | block | enc => rfl
  | crcu => exact congrArg UnitState.crcu (he.crcu_eq hk)
  | rbx => exact congrArg UnitState.rbx (he.rbx_eq (.inl hk))
  | fr => exact congrArg UnitState.fr (he.fr_eq (.inl hk))

/-! ### What an operation reads (R197) -/

/-- An operation gives the same response in two states, and `R` holds of the two next states. -/
def AnswersAlike (i : Instr) (s u : State) (R : State → State → Prop) : Prop :=
  ∃ (s' u' : State) (r : Response),
    exec i s = .next s' ∧ exec i u = .next u' ∧
    s'.responses = s.responses ++ [r] ∧ u'.responses = u.responses ++ [r] ∧ R s' u'

section
variable {i : Instr} {s u : State}

theorem AnswersAlike.mono {R Q : State → State → Prop} (h : AnswersAlike i s u R)
    (hRQ : ∀ s' u', R s' u' → Q s' u') : AnswersAlike i s u Q := by
  obtain ⟨s', u', r, hs, hu, hrs, hru, hR⟩ := h
  exact ⟨s', u', r, hs, hu, hrs, hru, hRQ s' u' hR⟩

/-- An operation that only answers with a value answers alike where the value is the same. -/
theorem answersAlike_of_respond {v w : RspVal} (hs : exec i s = .next (respond v s))
    (hu : exec i u = .next (respond w u)) (hv : v = w) : AnswersAlike i s u fun _ _ => True :=
  ⟨_, _, { err := false, val := v }, hs, hu, rfl, by rw [hv]; rfl, trivial⟩

/-- An operation reads its own unit at most: where the parameters and that unit agree, the response is the same and
the unit agrees again afterwards. -/
theorem exec_answersAlike (i : Instr) (hp : s.params = u.params) (hunit : s.unit (unitOf i) = u.unit (unitOf i)) :
    AnswersAlike i s u fun s' u' => s'.unit (unitOf i) = u'.unit (unitOf i) := by
  cases s
  cases u
  cases hp
  cases i with
  | nop => exact ⟨_, _, _, rfl, rfl, rfl, rfl, rfl⟩
  | crcClr | crcUpd | crcRd | rbClr | rbWr | rbRd | rbLen | frRst | frFeed | frHas =>
    cases hunit
    exact ⟨_, _, _, rfl, rfl, rfl, rfl, rfl⟩
  | frPop =>
    cases hunit
    simp only [AnswersAlike, exec, execFrPop]
    split <;> exact ⟨_, _, _, rfl, rfl, rfl, rfl, rfl⟩
  | frStat =>
    cases hunit
    simp only [AnswersAlike, exec, execFrStat]
    split <;> exact ⟨_, _, _, rfl, rfl, rfl, rfl, rfl⟩
  | enc =>
    simp only [AnswersAlike, exec, execEnc]
    split <;> exact ⟨_, _, _, rfl, rfl, rfl, rfl, rfl⟩

/-- FR_POP reads the queue of the framer alone (R183). -/
theorem exec_frPop_answersAlike (hpq : s.fr.pq = u.fr.pq) :
    AnswersAlike .frPop s u fun s' u' => s'.fr.pq = u'.fr.pq := by
  simp only [AnswersAlike, exec, execFrPop, ← hpq]
  split
  · exact ⟨_, _, _, rfl, rfl, rfl, rfl, hpq⟩
  · exact ⟨_, _, _, rfl, rfl, rfl, rfl, rfl⟩

/-- A status register is a function of the five statistics registers and the queue (R32, R184). -/
theorem Framer.stat_congr {f g : Framer} (htotal : f.totalBytesSeen = g.totalBytesSeen)
    (hdropped : f.droppedBytes = g.droppedBytes) (hstreak : f.badPacketStreak = g.badPacketStreak)
    (hbad : f.badPacketCount = g.badPacketCount) (hovf : f.pqOverflow = g.pqOverflow) (hpq : f.pq = g.pq)
    (r : StatReg) : f.stat r = g.stat r := by
  cases r <;> simp only [Framer.stat, Framer.noiseRatio, htotal, hdropped, hstreak, hbad, hovf, hpq]

/-- FR_STAT reads the status registers alone (R185). -/
theorem exec_frStat_answersAlike (hstat : ∀ r, s.fr.stat r = u.fr.stat r) (sel : Byte) :
    AnswersAlike (.frStat sel) s u fun _ _ => True := by
  cases hsel : statReg sel with
  | none =>
    have hwf : (Instr.frStat sel).wellFormed = false := (statReg_eq_none_iff sel).mp hsel
    exact ⟨_, _, _, exec_of_not_wellFormed hwf, exec_of_not_wellFormed hwf, rfl, rfl, trivial⟩
  | some r =>
    exact answersAlike_of_respond (exec_frStat_of_statReg hsel s) (exec_frStat_of_statReg hsel u)
      (congrArg RspVal.u32 (hstat r))

end

/-- Settles O52: an operation that reads its whole unit answers alike by `exec_answersAlike`, a clearing operation
reads nothing, and the others read a part of their unit. -/
theorem operationsReadOnlyTheirRow : Obligations.OperationsReadOnlyTheirRow := by
  unfold Obligations.OperationsReadOnlyTheirRow
  intro i s u hp hread
  cases i with
  | nop => exact answersAlike_of_respond rfl rfl rfl
  | crcClr | rbClr | frRst => exact ⟨_, _, _, rfl, rfl, rfl, rfl, rfl⟩
  | crcUpd =>
    exact AnswersAlike.mono (exec_answersAlike _ hp (congrArg UnitState.crcu hread)) fun _ _ => UnitState.crcu.inj
  | crcRd => exact answersAlike_of_respond rfl rfl (congrArg RspVal.u16 hread)
  | rbWr | rbRd =>
    exact AnswersAlike.mono (exec_answersAlike _ hp (congrArg UnitState.rbx hread)) fun _ _ => UnitState.rbx.inj
  | rbLen => exact answersAlike_of_respond rfl rfl (congrArg (fun n => RspVal.u32 (zext32 n)) hread)
  | frFeed =>
    exact AnswersAlike.mono (exec_answersAlike _ hp (congrArg UnitState.fr hread)) fun _ _ => UnitState.fr.inj
  | frHas =>
    exact answersAlike_of_respond rfl rfl (congrArg (fun q => RspVal.bool (decide (List.length q > 0))) hread)
  | frPop => exact exec_frPop_answersAlike hread
  | frStat sel =>
    obtain ⟨htotal, hdropped, hstreak, hbad, hovf, hpq⟩ := hread
    exact exec_frStat_answersAlike (Framer.stat_congr htotal hdropped hstreak hbad hovf hpq) sel
  | enc => exact AnswersAlike.mono (exec_answersAlike _ hp rfl) fun _ _ _ => trivial

/-! ### Operations of different units (R197) -/

/-- Two operations one after the other, in terms of their two steps. -/
theorem execAll_pair {i j : Instr} {s t v : State} (hi : exec i s = .next t) (hj : exec j t = .next v) :
    execAll [i, j] s = .next v :=
  (execAll_cons_of_exec hi [j]).trans (execAll_cons_of_exec hj [])

/-- Settles O53: each operation finds its unit and the parameters as it would find them first, so it answers alike in
both orders; a unit is left as by the one operation that may write it. -/
theorem operationsOfDifferentUnitsCommute : Obligations.OperationsOfDifferentUnitsCommute := by
  unfold Obligations.OperationsOfDifferentUnitsCommute
  intro i j s hij
  obtain ⟨si, hi, -⟩ := exec_next_withPending i s
  have hei := exec_effect hi
  obtain ⟨sj, a, q, hj, hja, hsj, ha, hunitj⟩ := exec_answersAlike j hei.params_eq.symm (hei.unit_eq hij).symm
  have hej := exec_effect hj
  obtain ⟨si', b, r, hi', hib, hsi, hb, huniti⟩ :=
    exec_answersAlike i hej.params_eq.symm (hej.unit_eq hij.symm).symm
  cases hi.symm.trans hi'
  have hunits (k : BlockUnit) : a.unit k = b.unit k := by
    by_cases hki : unitOf i = k
    · -- `j` keeps what `i` wrote, and `i` writes the same after `j`
      subst hki
      exact ((exec_effect hja).unit_eq hij.symm).trans huniti
    · rw [(exec_effect hib).unit_eq hki]
      by_cases hkj : unitOf j = k
      · subst hkj
        exact hunitj.symm
      · rw [(exec_effect hja).unit_eq hkj, hei.unit_eq hki, hej.unit_eq hkj]
  obtain ⟨hcrcu, hrbx, hfr⟩ := State.units_of_unit_eq hunits
  exact ⟨a, b, r, q, execAll_pair hi hja, execAll_pair hj hib, hcrcu, hrbx, hfr, by simp [ha, hsi],
    by simp [hb, hsj]⟩

end Sys2Proof.Machine
end

section
namespace Sys2Proof.Machine

/-! ### The queue after an operation, and the output pkt_avail (R206) -/

/-- A packet waits after FR_FEED exactly when the byte completes a valid one or one waited before (R174, R181). -/
theorem Framer.feed_pq_ne_nil_iff {f : Framer} {d : Nat} {b : Byte} :
    (f.feed d b).pq ≠ [] ↔ (f.fst = .checksumHigh ∧ f.fCrc = joinBytes b f.fCkLo) ∨ f.pq ≠ [] := by
  have henqueue (g : Framer) (p : Packet) : (g.enqueue d p).pq ≠ [] := by
    rw [Framer.enqueue_pq]
    split <;> exact List.append_ne_nil_of_right_ne_nil _ (List.cons_ne_nil _ _)
  rw [Framer.feed, Framer.decay_pq, Framer.onState_pq]
  split
  next hvalid => exact iff_of_true (henqueue _ _) (.inl hvalid)
  next hnot => exact ⟨.inr, fun h => h.resolve_left hnot⟩

section
variable {s t : State}

theorem State.pktAvail_iff : s.pktAvail = true ↔ s.fr.pq ≠ [] := by
  rw [State.pktAvail, decide_eq_true_iff, gt_iff_lt, List.length_pos_iff]

/-- FR_FEED raises the output when it completes a valid packet, and never lowers it. -/
theorem exec_frFeed_pktAvail {b : Byte} (h : exec (.frFeed b) s = .next t) :
    t.pktAvail = true ↔ (s.fr.fst = .checksumHigh ∧ s.fr.fCrc = joinBytes b s.fr.fCkLo) ∨ s.pktAvail = true := by
  cases h
  rw [State.pktAvail_iff, State.pktAvail_iff, respond_fr, State.withFr_fr, Framer.feed_pq_ne_nil_iff]

/-- FR_POP takes the oldest packet, if there is one (R183). -/
theorem exec_frPop_pq (h : exec .frPop s = .next t) : t.fr.pq = s.fr.pq.tail := by
  obtain ⟨hempty, hcons⟩ := frPopTakesTheOldestPacket.2 s
  cases hpq : s.fr.pq with
  | nil => cases h.symm.trans (hempty hpq); exact hpq
  | cons p rest => cases h.symm.trans (hcons p rest hpq); rfl

/-- FR_POP leaves the output high when a second packet waits. -/
theorem exec_frPop_pktAvail (h : exec .frPop s = .next t) : t.pktAvail = true ↔ 1 < s.fr.pq.length := by
  rw [State.pktAvail, decide_eq_true_iff, exec_frPop_pq h, List.length_tail, gt_iff_lt, Nat.sub_pos_iff_lt]

/-- An operation that leaves the framer as it is leaves the output as it is. -/
theorem State.pktAvail_congr (h : t.fr = s.fr) : t.pktAvail = s.pktAvail := by
  rw [State.pktAvail, h, ← State.pktAvail]

end

/-- Settles O49: FR_FEED can only raise the output, FR_POP and FR_RST can only lower it, and the other operations keep
the framer. -/
theorem packetAvailableRisesAndFalls : Obligations.PacketAvailableRisesAndFalls := by
  unfold Obligations.PacketAvailableRisesAndFalls
  constructor
  · intro s t es hp hstep
    cases (step_of_reset hp).symm.trans hstep
    rfl
  · intro i s t hexec
    cases i with
    | frFeed b =>
      have hrise := exec_frFeed_pktAvail hexec
      rw [joinBytes_eq_ofNat] at hrise
      refine ⟨fun hlow => ?_, fun hhigh => ?_⟩
      · simp [hrise, hlow]
      · simp [hrise.mpr (.inr hhigh)]
    | frPop =>
      have hkept := exec_frPop_pktAvail hexec
      refine ⟨fun hlow => ?_, fun hhigh => ?_⟩
      · have hempty : ¬0 < s.fr.pq.length := of_decide_eq_false hlow
        simp only [hkept, reduceCtorEq, false_and, exists_false, iff_false]
        omega
      · have hpos : 0 < s.fr.pq.length := of_decide_eq_true hhigh
        rw [← Bool.not_eq_true, hkept]
        simp only [reduceCtorEq, true_and, false_or]
        omega
    | frRst => cases hexec; simp [State.pktAvail, Framer.clear]
    | _ =>
      have hsame := State.pktAvail_congr ((exec_effect hexec).fr_eq (by simp [unitOf]))
      simp +contextual [hsame]

end Sys2Proof.Machine
end

section
namespace Sys2Proof.Machine

/-! ### The events of FR_FEED (R201 to R204) -/

/-- R201's condition for each event, for the byte `b` fed to a framer; a reserved operation and a ring overwrite are
no events of FR_FEED. -/
def Framer.Raises (depth : Nat) (b : Byte) (f : Framer) : Event → Prop
  | .framingNoise => f.fst = .awaitingStx ∧ b ≠ Config.stx
  | .checksumMismatch => f.fst = .checksumHigh ∧ f.fCrc ≠ joinBytes b f.fCkLo
  | .oversizedLength => f.fst = .lengthHigh ∧ Config.maxLen ≤ (joinBytes b f.fLenLo).toNat
  | .queueOverflow => f.fst = .checksumHigh ∧ f.pq.length = depth ∧ f.fCrc = joinBytes b f.fCkLo
  | .reservedOperation | .ringOverwrite => False

section
variable {f : Framer} {d : Nat} {b : Byte}

/-- The events of FR_FEED are those whose conditions hold. -/
theorem Framer.mem_events_iff {e : Event} : e ∈ f.events d b ↔ f.Raises d b e := by
  unfold Framer.events
  cases hf : f.fst with
  | awaitingStx | address | lengthLow | lengthHigh | body | checksumLow => cases e <;> simp [Framer.Raises, hf]
  | checksumHigh =>
    by_cases hc : f.fCrc = joinBytes b f.fCkLo <;> cases e <;> simp [Framer.Raises, hf, hc]

/-- FR_FEED raises at most one event: each state has its own, and a valid packet is no checksum mismatch. -/
theorem Framer.events_length_le : (f.events d b).length ≤ 1 := by
  unfold Framer.events
  cases f.fst with
  | address | lengthLow | body | checksumLow => exact Nat.zero_le 1
  | awaitingStx | lengthHigh => dsimp only; split <;> simp
  | checksumHigh => dsimp only; split_ifs <;> simp

/-- An encoded FR_FEED raises the events of its byte. -/
theorem opEvents_frFeed (b : Byte) (s : State) : opEvents (encode (.frFeed b)) s = s.fr.events s.params.pqDepth b := by
  rw [opEvents, decode_encode]
  rfl

/-! ### What the events of FR_FEED record (R181, R203, R204) -/

/-- A checksum mismatch and an oversized length are counted as bad packets, and nothing else is (R167, R175). -/
theorem Framer.onState_badPacketCount :
    (f.onState d b).badPacketCount =
      if (f.fst = .checksumHigh ∧ f.fCrc ≠ joinBytes b f.fCkLo) ∨
          (f.fst = .lengthHigh ∧ Config.maxLen ≤ (joinBytes b f.fLenLo).toNat) then
        satInc f.badPacketCount
      else f.badPacketCount := by
  refine Framer.onState_elim (P := fun g => g.badPacketCount =
      if (f.fst = .checksumHigh ∧ f.fCrc ≠ joinBytes b f.fCkLo) ∨
          (f.fst = .lengthHigh ∧ Config.maxLen ≤ (joinBytes b f.fLenLo).toNat) then
        satInc f.badPacketCount
      else f.badPacketCount)
    ?stx ?noise ?addr ?low ?oversized ?zero ?start ?body ?cklow ?valid ?fail
  case oversized => intro hf hl; rw [if_pos (.inr ⟨hf, hl⟩)]; rfl
  case zero => intro hf hl; exact (if_neg (by simp [hf, hl])).symm
  case start => intro hf hl _; exact (if_neg (by simpa [hf] using hl)).symm
  case valid => intro hf hc; rw [if_neg (by simp [hf, hc])]; simp [Framer.validPacket]
  case fail => intro hf hc; rw [if_pos (.inl ⟨hf, hc⟩)]; rfl
  all_goals intro hf; intros; exact (if_neg (by simp [hf])).symm

/-- A packet lost from a full queue is counted, and nothing else is (R181). -/
theorem Framer.onState_pqOverflow :
    (f.onState d b).pqOverflow =
      if f.fst = .checksumHigh ∧ f.pq.length = d ∧ f.fCrc = joinBytes b f.fCkLo then satInc f.pqOverflow
      else f.pqOverflow := by
  refine Framer.onState_elim (P := fun g => g.pqOverflow =
      if f.fst = .checksumHigh ∧ f.pq.length = d ∧ f.fCrc = joinBytes b f.fCkLo then satInc f.pqOverflow
      else f.pqOverflow)
    ?stx ?noise ?addr ?low ?oversized ?zero ?start ?body ?cklow ?valid ?fail
  case valid => intro hf hc; simpa [hf, hc, Framer.validPacket] using Framer.enqueue_pqOverflow f d _
  case fail => intro _ hc; exact (if_neg fun h => hc h.2.2).symm
  all_goals intro hf; intros; exact (if_neg (by simp [hf])).symm

theorem Framer.feed_badPacketCount : (f.feed d b).badPacketCount = (f.onState d b).badPacketCount := by
  rw [Framer.feed_eq_onState]
  rfl

theorem Framer.feed_pqOverflow : (f.feed d b).pqOverflow = (f.onState d b).pqOverflow := by
  rw [Framer.feed_eq_onState]
  rfl

/-- The streak rises on a checksum mismatch, and a valid packet ends it. -/
theorem Framer.feed_badPacketStreak_eq :
    (f.feed d b).badPacketStreak =
      if f.fst = .checksumHigh ∧ f.fCrc ≠ joinBytes b f.fCkLo then satInc f.badPacketStreak
      else if f.fst = .checksumHigh then 0 else f.badPacketStreak := by
  rw [Framer.feed_badPacketStreak, Framer.onState_badPacketStreak]
  by_cases hf : f.fst = .checksumHigh
  · by_cases hc : f.fCrc = joinBytes b f.fCkLo <;> simp [hf, hc]
  · simp [hf]

end

/-- Settles O50: each event has its condition, and each of the four counters changes under the condition of the events
that it records. -/
theorem feedEventsAreRecorded : Obligations.FeedEventsAreRecorded := by
  unfold Obligations.FeedEventsAreRecorded
  intro b s t hexec ev sat noise
  have hevents : ev = s.fr.events s.params.pqDepth b := opEvents_frFeed b s
  have hev (e : Event) : e ∈ ev ↔ s.fr.Raises s.params.pqDepth b e := by rw [hevents, Framer.mem_events_iff]
  have hck : joinBytes b s.fr.fCkLo = BitVec.ofNat 16 (256 * b.toNat + s.fr.fCkLo.toNat) := joinBytes_eq_ofNat _ _
  have hl : (joinBytes b s.fr.fLenLo).toNat = 256 * b.toNat + s.fr.fLenLo.toNat := joinBytes_toNat _ _
  have hsat (v : U32) : satInc v = sat v := satInc_eq v
  have hnoise : (if s.fr.fst = .awaitingStx ∧ b ≠ Config.stx then s.fr.droppedBytes + 1 else s.fr.droppedBytes) =
      noise := if_congr (hev .framingNoise).symm rfl rfl
  cases hexec
  rw [respond_fr, State.withFr_fr]
  refine ⟨hev _, hck ▸ hev _, hl ▸ hev _, hck ▸ hev _, ?dropped, ?streak, ?bad, ?overflow, ?one,
    (hev _).mp, (hev _).mp⟩
  case dropped => rw [Framer.feed_droppedBytes, hnoise]; rfl
  case streak =>
    rw [Framer.feed_badPacketStreak_eq]
    exact if_congr (hev .checksumMismatch).symm (hsat _) rfl
  case bad =>
    rw [Framer.feed_badPacketCount, Framer.onState_badPacketCount]
    exact if_congr (or_congr (hev .checksumMismatch) (hev .oversizedLength)).symm (hsat _) rfl
  case overflow =>
    rw [Framer.feed_pqOverflow, Framer.onState_pqOverflow]
    exact if_congr (hev .queueOverflow).symm (hsat _) rfl
  case one => rw [hevents]; exact Framer.events_length_le

end Sys2Proof.Machine
end

section
namespace Sys2Proof.Machine

/-! ### Reset (R220, R221) -/

/-- Settles O7: the step is `blockReset`, which gives every unit its reset value. -/
theorem resetEventPutsResetValues : Obligations.ResetEventPutsResetValues := by
  unfold Obligations.ResetEventPutsResetValues
  exact fun s es hp => ⟨_, step_of_reset hp, rfl, rfl, rfl, rfl, rfl, rfl, rfl, rfl, rfl, rfl, rfl, rfl⟩

/-- Settles O8: each row is a closed fact about the one state `State.reset`. -/
theorem stateResetHoldsTheTabledValues : Obligations.StateResetHoldsTheTabledValues := by
  unfold Obligations.StateResetHoldsTheTabledValues
  decide

/-! ### The partial resets (R105, R125, R186, R222) -/

/-- A ring cleared keeps storage that a ring reset does not list, but no stored byte shows it (R121, R129). -/
theorem Ring.clear_contents_eq_reset (cap : Nat) (r : Ring) : r.clear.contents cap = Ring.reset.contents cap :=
  (Ring.contents_of_empty rfl).trans (Ring.contents_of_empty rfl).symm

/-- FR_RST leaves of the framer what the block reset leaves, the storage of ACC aside. -/
theorem Framer.clear_view_eq_reset (f : Framer) : f.clear.view = Framer.reset.view :=
  congrArg (fun bytes => { Framer.reset.view with acc := bytes })
    (Ring.clear_contents_eq_reset Config.accCap f.acc)

/-- The three operations make each unit's own reset, one after another. -/
theorem execAll_partialResets (s : State) :
    execAll [.crcClr, .rbClr, .frRst] s = .next { s with
      crcu := Crcu.reset
      rbx := s.rbx.clear
      fr := s.fr.clear
      responses := s.responses ++ [⟨false, .none⟩] ++ [⟨false, .none⟩] ++ [⟨false, .none⟩] } :=
  (execAll_cons_of_exec rfl [.rbClr, .frRst]).trans (execAll_pair rfl rfl)

/-- Settles O54: the two states can differ in the responses and in the storage of the two rings only, and the storage
of an empty ring is not observed. -/
theorem partialResetsMakeTheBlockReset : Obligations.PartialResetsMakeTheBlockReset := by
  unfold Obligations.PartialResetsMakeTheBlockReset
  intro s
  refine ⟨_, _, execAll_partialResets s, step_of_reset rfl, ?_⟩
  simp [State.observe, Ring.clear_contents_eq_reset, Framer.clear_view_eq_reset]

end Sys2Proof.Machine
end
